-- ==== Sys2Proof/Word.lean ====
section
/-! DEFINITION. The word types of LLC-CORE: what the spec treats as bits (00_scope.md R10, 10_state.md R17). -/

namespace Sys2Proof

/-- Eight bits: `fault`, `status`, an opcode, a channel field, one byte of a counter. -/
abbrev Byte := BitVec 8

/-- Sixteen bits: the operand fields `A` and `B` (30_encoding.md R57). -/
abbrev Half := BitVec 16

/-- Thirty-two bits: `edge_count[c]`, `snap`, `value` (10_state.md R26, R34, R35). -/
abbrev Word := BitVec 32

/-- A command word, 48 bits (30_encoding.md R57). -/
abbrev Command := BitVec 48

/-- A prescaler code, 3 bits, 0 meaning none (10_state.md R22, R23). -/
abbrev Code := BitVec 3

end Sys2Proof
end

