-- ==== Sys2Proof/Config.lean ====
section
/-! DEFINITION. What is fixed for one block and what the spec leaves free: the two channels, the parameters
of 00_scope.md R6 to R8 as a record of plain data, and the free values of the schedule (00_scope.md R12).
No number here that the spec calls OPEN is given a value a proof could use. -/

namespace Sys2Proof

/-- The two channels (00_scope.md R6, `NCHAN = 2`). -/
inductive Channel where
  | left
  | right
deriving DecidableEq, Repr, Inhabited

/-- Whose turn it is at a step boundary (00_scope.md R11, R12), hardware reset included
(70_reset_and_hazards.md R140: it may be applied at any step boundary). -/
inductive Turn where
  /-- The host takes its next micro-step, or presents its next word, or waits if it has none. -/
  | host
  /-- `Timer[c]` ticks, if its clock runs. -/
  | timer (c : Channel)
  /-- `Handler[c]` runs, if it is enabled. -/
  | handler (c : Channel)
  /-- The environment applies hardware reset. -/
  | reset
deriving DecidableEq, Repr, Inhabited

/-- `W(c)`, the width of the channel's compare range and of its counter (00_scope.md R6). -/
@[reducible] def width : Channel → Nat
  | .left => 8
  | .right => 16

/-- `TOP_MAX(c)` (00_scope.md R6). -/
def topMax : Channel → Nat
  | .left => 255
  | .right => 65535

/-- `HALF_PERIOD_UNITS` (00_scope.md R6). -/
def halfPeriodUnits : Nat := 5

namespace Config

/-- One channel's prescaler divisor table: the divisor that each of the codes 1 to 7 selects, where it
selects one (00_scope.md R7, `DIVISOR(c, ps)`). -/
structure DivisorTable where
  code1 : Option Nat
  code2 : Option Nat
  code3 : Option Nat
  code4 : Option Nat
  code5 : Option Nat
  code6 : Option Nat
  code7 : Option Nat
deriving DecidableEq, Repr, Inhabited

/-- The divisor a code selects; code 0 selects none (10_state.md R22). -/
def DivisorTable.lookup (t : DivisorTable) (ps : Code) : Option Nat :=
  match ps.toNat with
  | 1 => t.code1
  | 2 => t.code2
  | 3 => t.code3
  | 4 => t.code4
  | 5 => t.code5
  | 6 => t.code6
  | 7 => t.code7
  | _ => none

/-- The seven entries in order. -/
def DivisorTable.entries (t : DivisorTable) : List (Option Nat) :=
  [t.code1, t.code2, t.code3, t.code4, t.code5, t.code6, t.code7]

/-- The parameters the surrounding system supplies before reset is released (00_scope.md R7,
60_exceptions.md R137). -/
structure Params where
  /-- `BASE_CLOCK`, in Hz. -/
  baseClock : Nat
  /-- `STEPS_PER_REV`. -/
  stepsPerRev : Nat
  /-- `RPM_THRESHOLD`; its reference value is 500 (00_scope.md R6, 90_conflicts.md C12). -/
  rpmThreshold : Nat
  /-- `DIV_L_HIGH`, Left's divisor above the threshold. -/
  divLHigh : Nat
  /-- `DIV_L_LOW`, Left's divisor at or below the threshold. -/
  divLLow : Nat
  /-- `DIV_R`, Right's one divisor. -/
  divR : Nat
  /-- `PS_L_HIGH`. -/
  psLHigh : Code
  /-- `PS_L_LOW`. -/
  psLLow : Code
  /-- `PS_R`. -/
  psR : Code
  /-- `DIVISOR(Left, _)`. -/
  divisorsL : DivisorTable
  /-- `DIVISOR(Right, _)`. -/
  divisorsR : DivisorTable
  /-- `TIME_UNIT`, as a whole number of some duration the spec never names (log entry 19). -/
  timeUnit : Nat
  /-- `EN_ACTIVE_LEVEL(Left)`. -/
  enActiveL : Bool
  /-- `EN_ACTIVE_LEVEL(Right)`. -/
  enActiveR : Bool
  /-- `DIR_FWD_LEVEL(Left)`. -/
  dirFwdL : Bool
  /-- `DIR_FWD_LEVEL(Right)`. -/
  dirFwdR : Bool
deriving DecidableEq, Repr, Inhabited

/-- `DIVISOR(c, ps)` (00_scope.md R7). -/
def Params.divisor (p : Params) (c : Channel) (ps : Code) : Option Nat :=
  match c with
  | .left => p.divisorsL.lookup ps
  | .right => p.divisorsR.lookup ps

/-- `EN_ACTIVE_LEVEL(c)` (00_scope.md R7). -/
def Params.enActive (p : Params) : Channel → Bool
  | .left => p.enActiveL
  | .right => p.enActiveR

/-- `DIR_FWD_LEVEL(c)` (00_scope.md R7). -/
def Params.dirFwd (p : Params) : Channel → Bool
  | .left => p.dirFwdL
  | .right => p.dirFwdR

/-- The constraints of 00_scope.md R7 (types) and R8 (relations) on the parameters. -/
abbrev Params.WellFormed (p : Params) : Prop :=
  0 < p.baseClock ∧ 0 < p.stepsPerRev ∧ 0 < p.timeUnit ∧
  0 < p.divLHigh ∧ p.divLHigh < p.divLLow ∧ 0 < p.divR ∧
  p.psLHigh ≠ 0 ∧ p.psLLow ≠ 0 ∧ p.psR ≠ 0 ∧ p.psLHigh ≠ p.psLLow ∧
  p.divisor .left p.psLHigh = some p.divLHigh ∧
  p.divisor .left p.psLLow = some p.divLLow ∧
  p.divisor .right p.psR = some p.divR ∧
  some 0 ∉ p.divisorsL.entries ∧ some 0 ∉ p.divisorsR.entries

/-- The illustrative divisor table `T` of 95_test_vectors.md section 0: for tests, no property of the block. -/
def tableT : DivisorTable :=
  { code1 := some 1, code2 := some 8, code3 := some 64, code4 := some 256, code5 := some 1024,
    code6 := none, code7 := none }

/-- The illustrative configuration CFG-B of 95_test_vectors.md section 0: for tests, and to show that
well-formed parameters exist. -/
def cfgB : Params :=
  { baseClock := 16000000, stepsPerRev := 200, rpmThreshold := 500,
    divLHigh := 64, divLLow := 256, divR := 8, psLHigh := 3, psLLow := 4, psR := 2,
    divisorsL := tableT, divisorsR := tableT, timeUnit := 1,
    enActiveL := true, enActiveR := true, dirFwdL := true, dirFwdR := true }

/-- Parameters that meet the constraints. The default values only show that the type has a value. -/
structure Supplied where
  params : Params := cfgB
  wf : params.WellFormed := by decide
deriving Inhabited

/-- FREE VALUE (log entry 3): the parameters the surrounding system supplied, any that meet R7 and R8. -/
opaque supplied : Supplied

/-- FREE VALUE (log entry 4): whose turn the n-th undetermined turn is (00_scope.md R12(b): "chosen freely"). -/
opaque turn : Nat → Turn

/-- FREE VALUE (log entry 5): which of two enabled handlers the n-th undetermined choice lets go first
(00_scope.md R12(a): "if both are enabled either may go first"). -/
opaque handlerFirst : Nat → Channel

end Config
end Sys2Proof
end

