-- ==== Sys2Proof/Syntax.lean ====
section
/-! DEFINITION. The fourteen commands of spec/opcode_table.json as one inductive, their operands as the
values the rules compute with (30_encoding.md R63), and the other spellings of R71. -/

namespace Sys2Proof

/-- A command (30_encoding.md R61): one constructor per row of the opcode table. -/
inductive Instr where
  /-- `INIT` (45_facade.md R113). -/
  | init
  /-- `ENABLE c, flag` (43_dir_enable.md R102). -/
  | enable (c : Channel) (flag : Bool)
  /-- `SET_DIR c, forward` (43_dir_enable.md R103). -/
  | setDir (c : Channel) (forward : Bool)
  /-- `SET_SPEED c, rpm` (45_facade.md R114). -/
  | setSpeed (c : Channel) (rpm : Nat)
  /-- `SET_SPEED_BOTH rpm_l, rpm_r` (45_facade.md R115). -/
  | setSpeedBoth (rpmL rpmR : Nat)
  /-- `MOVE c, steps` (44_step_burst.md R106). -/
  | move (c : Channel) (steps : Int)
  /-- `STOP_ALL` (45_facade.md R116). -/
  | stopAll
  /-- `RESET_COUNTS` (42_edge_counter.md R95). -/
  | resetCounts
  /-- `GET_STEP_COUNT c` (42_edge_counter.md R94). -/
  | getStepCount (c : Channel)
  /-- `PROGRAM c, top, ps` (41_pulse_channel.md R85). -/
  | program (c : Channel) (top : Nat) (ps : Code)
  /-- `START c` (41_pulse_channel.md R86). -/
  | start (c : Channel)
  /-- `STOP c` (41_pulse_channel.md R87). -/
  | stop (c : Channel)
  /-- `MAP_SPEED c, rpm` (40_mapper.md R80). -/
  | mapSpeed (c : Channel) (rpm : Nat)
  /-- `EVT_ENABLE c, flag` (42_edge_counter.md R96). -/
  | evtEnable (c : Channel) (flag : Bool)
deriving DecidableEq, Repr

namespace Instr

/-- `DISABLE c` = `ENABLE c, 0` (30_encoding.md R71). -/
abbrev disable (c : Channel) : Instr := .enable c false

/-- `FWD c` = `SET_DIR c, 1` (30_encoding.md R71). -/
abbrev fwd (c : Channel) : Instr := .setDir c true

/-- `REV c` = `SET_DIR c, 0` (30_encoding.md R71). -/
abbrev rev (c : Channel) : Instr := .setDir c false

/-- `MASK c` = `EVT_ENABLE c, 0` (30_encoding.md R71). -/
abbrev mask (c : Channel) : Instr := .evtEnable c false

/-- `UNMASK c` = `EVT_ENABLE c, 1` (30_encoding.md R71). -/
abbrev unmask (c : Channel) : Instr := .evtEnable c true

end Instr

/-- The channel's name in assembler text (30_encoding.md R70). -/
def Channel.name : Channel → String
  | .left => "L"
  | .right => "R"

/-- A flag in assembler text (30_encoding.md R70). -/
def flagText (b : Bool) : String := if b then "1" else "0"

/-- The command as assembler text, operands in the order of 30_encoding.md R70. -/
def Instr.text : Instr → String
  | .init => "INIT"
  | .enable c flag => "ENABLE " ++ c.name ++ ", " ++ flagText flag
  | .setDir c forward => "SET_DIR " ++ c.name ++ ", " ++ (if forward then "fwd" else "rev")
  | .setSpeed c rpm => "SET_SPEED " ++ c.name ++ ", " ++ toString rpm
  | .setSpeedBoth rpmL rpmR => "SET_SPEED_BOTH " ++ toString rpmL ++ ", " ++ toString rpmR
  | .move c steps => "MOVE " ++ c.name ++ ", " ++ toString steps
  | .stopAll => "STOP_ALL"
  | .resetCounts => "RESET_COUNTS"
  | .getStepCount c => "GET_STEP_COUNT " ++ c.name
  | .program c top ps => "PROGRAM " ++ c.name ++ ", " ++ toString top ++ ", " ++ toString ps.toNat
  | .start c => "START " ++ c.name
  | .stop c => "STOP " ++ c.name
  | .mapSpeed c rpm => "MAP_SPEED " ++ c.name ++ ", " ++ toString rpm
  | .evtEnable c flag => "EVT_ENABLE " ++ c.name ++ ", " ++ flagText flag

end Sys2Proof
end

