-- ==== Sys2Proof/WellFormed.lean ====
section
/-! DEFINITION. When a command's operands are in the ranges 30_encoding.md R63 gives them, so that some
command word stands for it. -/

namespace Sys2Proof

/-- A 16-bit unsigned operand: `rpm`, `rpm_l`, `rpm_r`, `top` (30_encoding.md R63). -/
def fitsUnsigned16 (n : Nat) : Bool := n ≤ 65535

/-- A 16-bit two's complement operand: `steps` (30_encoding.md R63). -/
def fitsSigned16 (z : Int) : Bool := -32768 ≤ z && z ≤ 32767

/-- Every operand lies in its field's range; channels, flags and codes do so by their types. -/
def Instr.wellFormed : Instr → Bool
  | .setSpeed _ rpm => fitsUnsigned16 rpm
  | .setSpeedBoth rpmL rpmR => fitsUnsigned16 rpmL && fitsUnsigned16 rpmR
  | .move _ steps => fitsSigned16 steps
  | .program _ top _ => fitsUnsigned16 top
  | .mapSpeed _ rpm => fitsUnsigned16 rpm
  | .init | .enable _ _ | .setDir _ _ | .stopAll | .resetCounts | .getStepCount _
  | .start _ | .stop _ | .evtEnable _ _ => true

end Sys2Proof
end

