-- ==== Sys2Proof/Decode.lean ====
section
/-! DEFINITION. From a 48-bit command word to a command or a rejection by name, in the order of
30_encoding.md R64 (2) to (4), and back. Total on every word. -/

namespace Sys2Proof

/-- Why a word is no command (30_encoding.md R64 (2), (3), (4)). -/
inductive Reject where
  /-- `OP` is none of the fourteen opcodes (R66). -/
  | illegalOpcode
  /-- A reserved field or part of a field is non-zero (R65). -/
  | reservedBits
  /-- The opcode uses `CH` and `CH > 1` (R67). -/
  | invalidChannel
deriving DecidableEq, Repr

/-- The fourteen opcodes (30_encoding.md R61). -/
inductive Opcode where
  | init | enable | setDir | setSpeed | setSpeedBoth | move | stopAll | resetCounts
  | getStepCount | program | start | stop | mapSpeed | evtEnable
deriving DecidableEq, Repr

/-- `OP = cmd[47:40]` (30_encoding.md R57). -/
def opField (w : Command) : Byte := w.extractLsb' 40 8

/-- `CH = cmd[39:32]` (30_encoding.md R57). -/
def chField (w : Command) : Byte := w.extractLsb' 32 8

/-- `A = cmd[31:16]` (30_encoding.md R57). -/
def aField (w : Command) : Half := w.extractLsb' 16 16

/-- `B = cmd[15:0]` (30_encoding.md R57). -/
def bField (w : Command) : Half := w.extractLsb' 0 16

/-- The `OP` byte of an opcode (30_encoding.md R61). -/
def Opcode.number : Opcode → Byte
  | .init => 0x01
  | .enable => 0x02
  | .setDir => 0x03
  | .setSpeed => 0x04
  | .setSpeedBoth => 0x05
  | .move => 0x06
  | .stopAll => 0x07
  | .resetCounts => 0x08
  | .getStepCount => 0x09
  | .program => 0x10
  | .start => 0x11
  | .stop => 0x12
  | .mapSpeed => 0x13
  | .evtEnable => 0x14

/-- The opcode an `OP` byte names, if any (30_encoding.md R61, R66). -/
def Opcode.ofByte (b : Byte) : Option Opcode :=
  match b.toNat with
  | 0x01 => some .init
  | 0x02 => some .enable
  | 0x03 => some .setDir
  | 0x04 => some .setSpeed
  | 0x05 => some .setSpeedBoth
  | 0x06 => some .move
  | 0x07 => some .stopAll
  | 0x08 => some .resetCounts
  | 0x09 => some .getStepCount
  | 0x10 => some .program
  | 0x11 => some .start
  | 0x12 => some .stop
  | 0x13 => some .mapSpeed
  | 0x14 => some .evtEnable
  | _ => none

/-- Whether the opcode uses `CH` as a channel (30_encoding.md R58, R61). -/
def Opcode.usesChannel : Opcode → Bool
  | .init | .setSpeedBoth | .stopAll | .resetCounts => false
  | .enable | .setDir | .setSpeed | .move | .getStepCount | .program | .start | .stop
  | .mapSpeed | .evtEnable => true

/-- The bits of `A` that are free in the opcode's encoding (30_encoding.md R62). -/
def Opcode.freeA : Opcode → Half
  | .enable | .setDir | .evtEnable => 0x0001
  | .setSpeed | .setSpeedBoth | .move | .program | .mapSpeed => 0xFFFF
  | .init | .stopAll | .resetCounts | .getStepCount | .start | .stop => 0x0000

/-- The bits of `B` that are free in the opcode's encoding (30_encoding.md R62). -/
def Opcode.freeB : Opcode → Half
  | .setSpeedBoth => 0xFFFF
  | .program => 0x0007
  | .init | .enable | .setDir | .setSpeed | .move | .stopAll | .resetCounts | .getStepCount
  | .start | .stop | .mapSpeed | .evtEnable => 0x0000

/-- The opcode's `match` (30_encoding.md R62, spec/opcode_table.json). -/
def Opcode.matchWord : Opcode → Command
  | .init => 0x010000000000
  | .enable => 0x020000000000
  | .setDir => 0x030000000000
  | .setSpeed => 0x040000000000
  | .setSpeedBoth => 0x050000000000
  | .move => 0x060000000000
  | .stopAll => 0x070000000000
  | .resetCounts => 0x080000000000
  | .getStepCount => 0x090000000000
  | .program => 0x100000000000
  | .start => 0x110000000000
  | .stop => 0x120000000000
  | .mapSpeed => 0x130000000000
  | .evtEnable => 0x140000000000

/-- The opcode's `mask` (30_encoding.md R62, spec/opcode_table.json). -/
def Opcode.maskWord : Opcode → Command
  | .init => 0xFFFFFFFFFFFF
  | .enable => 0xFFFEFFFEFFFF
  | .setDir => 0xFFFEFFFEFFFF
  | .setSpeed => 0xFFFE0000FFFF
  | .setSpeedBoth => 0xFFFF00000000
  | .move => 0xFFFE0000FFFF
  | .stopAll => 0xFFFFFFFFFFFF
  | .resetCounts => 0xFFFFFFFFFFFF
  | .getStepCount => 0xFFFEFFFFFFFF
  | .program => 0xFFFE0000FFF8
  | .start => 0xFFFEFFFFFFFF
  | .stop => 0xFFFEFFFFFFFF
  | .mapSpeed => 0xFFFE0000FFFF
  | .evtEnable => 0xFFFEFFFEFFFF

/-- All the reserved bits of a word with this opcode are zero (30_encoding.md R65): the bits of `A` and `B`
that are not free, and all of `CH` where the opcode uses no channel. -/
def Opcode.reservedZero (o : Opcode) (w : Command) : Bool :=
  (o.usesChannel || chField w == 0) &&
  (aField w &&& ~~~ o.freeA) == 0 && (bField w &&& ~~~ o.freeB) == 0

/-- `c = Left` if `CH = 0`, `Right` if `CH = 1` (30_encoding.md R58, R63). -/
def channelOf (ch : Byte) : Channel := if ch = 0 then .left else .right

/-- A flag operand is the bit `A[0]`, 1 = true (30_encoding.md R63). -/
def flagOf (a : Half) : Bool := a.getLsbD 0

/-- `ps = B[2:0]` (30_encoding.md R63). -/
def codeOf (b : Half) : Code := b.extractLsb' 0 3

/-- The command of an opcode with operands taken from the fields (30_encoding.md R63): `rpm` and `top`
unsigned, `steps` two's complement. -/
def Opcode.assemble (o : Opcode) (c : Channel) (a b : Half) : Instr :=
  match o with
  | .init => .init
  | .enable => .enable c (flagOf a)
  | .setDir => .setDir c (flagOf a)
  | .setSpeed => .setSpeed c a.toNat
  | .setSpeedBoth => .setSpeedBoth a.toNat b.toNat
  | .move => .move c a.toInt
  | .stopAll => .stopAll
  | .resetCounts => .resetCounts
  | .getStepCount => .getStepCount c
  | .program => .program c a.toNat (codeOf b)
  | .start => .start c
  | .stop => .stop c
  | .mapSpeed => .mapSpeed c a.toNat
  | .evtEnable => .evtEnable c (flagOf a)

/-- The decoder: checks (2), (3), (4) of 30_encoding.md R64 in that order. -/
def decode (w : Command) : Except Reject Instr :=
  match Opcode.ofByte (opField w) with
  | none => .error .illegalOpcode
  | some o =>
    if o.reservedZero w = false then .error .reservedBits
    else if o.usesChannel = true ∧ 1 < (chField w).toNat then .error .invalidChannel
    else .ok (o.assemble (channelOf (chField w)) (aField w) (bField w))

/-- The opcode of a command. -/
def Instr.opcode : Instr → Opcode
  | .init => .init
  | .enable _ _ => .enable
  | .setDir _ _ => .setDir
  | .setSpeed _ _ => .setSpeed
  | .setSpeedBoth _ _ => .setSpeedBoth
  | .move _ _ => .move
  | .stopAll => .stopAll
  | .resetCounts => .resetCounts
  | .getStepCount _ => .getStepCount
  | .program _ _ _ => .program
  | .start _ => .start
  | .stop _ => .stop
  | .mapSpeed _ _ => .mapSpeed
  | .evtEnable _ _ => .evtEnable

/-- A word from its four fields (30_encoding.md R57). -/
def pack (op ch : Byte) (a b : Half) : Command := op ++ ch ++ a ++ b

/-- The `CH` byte of a channel (30_encoding.md R58). -/
def channelByte : Channel → Byte
  | .left => 0x00
  | .right => 0x01

/-- The `A` field of a flag (30_encoding.md R63). -/
def flagField (b : Bool) : Half := if b then 0x0001 else 0x0000

/-- The word of a command, unused fields zero (30_encoding.md R57, R61). -/
def encode (i : Instr) : Command :=
  match i with
  | .init => pack 0x01 0 0 0
  | .enable c flag => pack 0x02 (channelByte c) (flagField flag) 0
  | .setDir c forward => pack 0x03 (channelByte c) (flagField forward) 0
  | .setSpeed c rpm => pack 0x04 (channelByte c) (BitVec.ofNat 16 rpm) 0
  | .setSpeedBoth rpmL rpmR => pack 0x05 0 (BitVec.ofNat 16 rpmL) (BitVec.ofNat 16 rpmR)
  | .move c steps => pack 0x06 (channelByte c) (BitVec.ofInt 16 steps) 0
  | .stopAll => pack 0x07 0 0 0
  | .resetCounts => pack 0x08 0 0 0
  | .getStepCount c => pack 0x09 (channelByte c) 0 0
  | .program c top ps => pack 0x10 (channelByte c) (BitVec.ofNat 16 top) (ps.setWidth 16)
  | .start c => pack 0x11 (channelByte c) 0 0
  | .stop c => pack 0x12 (channelByte c) 0 0
  | .mapSpeed c rpm => pack 0x13 (channelByte c) (BitVec.ofNat 16 rpm) 0
  | .evtEnable c flag => pack 0x14 (channelByte c) (flagField flag) 0

/-- The command word whose low `nbits` bits are those of `w`, every bit above them 0, numbered as
spec/opcode_table.json numbers them (bit 47 the top bit of `OP`; 30_encoding.md R45, R57: exchanged as one
whole value, no byte order; log entry 1). -/
def tableWord (nbits w : Nat) : Command := BitVec.ofNat 48 (w % 2 ^ nbits)

/-- What the decoder reads from a word of the opcode table; none where it rejects the word. -/
def decodeTableWord (nbits w : Nat) : Option Instr :=
  match decode (tableWord nbits w) with
  | .ok i => some i
  | .error _ => none

end Sys2Proof
end

