-- ==== Sys2Proof/Machine/State.lean ====
section
/-! DEFINITION. The block's state as plain data: every element of 10_state.md R17 with its reset value (R42),
the ghost trace of 00_scope.md R15, and the model's own fields for what stands outside the block (the
parameters, the words still to present, the schedule). -/

namespace Sys2Proof.Machine

/-- `direction[c]`: bit 0 = Forward, 1 = Reverse (10_state.md R19). -/
inductive Direction where
  | forward
  | reverse
deriving DecidableEq, Repr

/-- One channel: driver, timer, counter and event state, with the channel's width `w`
(10_state.md R18 to R30). -/
structure Chan (w : Nat) where
  /-- `enabled[c]` (R18). -/
  enabled : Bool
  /-- `direction[c]` (R19). -/
  direction : Direction
  /-- `top[c]` (R20). -/
  top : BitVec w
  /-- `cmp[c]` (R21). -/
  cmp : BitVec w
  /-- `prescaler[c]` (R22). -/
  prescaler : Code
  /-- `cs[c]` (R23). -/
  cs : Code
  /-- `cnt[c]` (R24). -/
  cnt : BitVec w
  /-- `pulse[c]` (R25). -/
  pulse : Bool
  /-- `edge_count[c]` (R26). -/
  edgeCount : Word
  /-- `ip[c]` (R28). -/
  ip : Bool
  /-- `ie[c]` (R29). -/
  ie : Bool
  /-- `ovr[c]` (R30). -/
  ovr : Bool
deriving DecidableEq, Repr

/-- The phase of a burst's cycle (10_state.md R37). -/
inductive Phase where
  | high
  | low
deriving DecidableEq, Repr

/-- `seq`, the host sequencer (10_state.md R37). -/
inductive Seq where
  /-- No command in progress; the port is ready. -/
  | idle
  /-- `GET_STEP_COUNT c` in progress, `i` bytes copied. -/
  | snap (c : Channel) (i : Fin 5)
  /-- `RESET_COUNTS` in progress on channel `c`, `i` of its bytes zeroed. -/
  | zero (c : Channel) (i : Fin 5)
  /-- `MOVE c` in progress, `n` full cycles still to produce. -/
  | burst (c : Channel) (n : Nat) (phase : Phase)
deriving DecidableEq, Repr

/-- The output pins of a channel (10_state.md R40). -/
inductive Pin where
  | pulse
  | dir
  | en
deriving DecidableEq, Repr

/-- The events of the observation trace (00_scope.md R15); levels are logical, not electrical. -/
inductive Event where
  /-- The host wrote `v` to the state bit behind the pin. -/
  | pinWrite (c : Channel) (pin : Pin) (v : Bool)
  /-- `Timer[c]` toggled `PULSE[c]` to this level. -/
  | toggle (c : Channel) (level : Bool)
  /-- `Handler[c]` ran. -/
  | edge (c : Channel)
  /-- The host lets this many time-units pass. -/
  | delay (units : Nat)
deriving DecidableEq, Repr

/-- The response codes (30_encoding.md R60); their numbers are `Status.code`. -/
inductive Status where
  | ok
  | clamped
  | invalidSpeed
  | invalidChannel
  | illegalCommand
  | notInitialised
  | faulted
deriving DecidableEq, Repr

/-- What a command can raise (60_exceptions.md R122); latched in `fault`, the machine goes on. -/
inductive Raised where
  /-- The opcode uses `CH` and `CH > 1`. -/
  | invalidChannel
  /-- Undefined `OP`, a non-zero reserved bit, or an unusable prescaler code. -/
  | illegalCommand
  /-- A command other than `INIT` while `inited = 0`. -/
  | notInitialised
deriving DecidableEq, Repr

structure State where
  /-- Channel Left, 8-bit timer. -/
  left : Chan 8
  /-- Channel Right, 16-bit timer. -/
  right : Chan 16
  /-- `inited` (10_state.md R31). -/
  inited : Bool
  /-- `fault`, 0x00 = none (10_state.md R32). -/
  fault : Byte
  /-- `status` (10_state.md R33). -/
  status : Byte
  /-- `value` (10_state.md R34). -/
  value : Word
  /-- `snap` (10_state.md R35). -/
  snap : Word
  /-- `saved_ie` (10_state.md R36). -/
  savedIe : Bool
  /-- `seq` (10_state.md R37). -/
  seq : Seq
  /-- Ghost: the observation trace, oldest first (00_scope.md R15). -/
  trace : List Event
  /-- MODEL'S OWN: the parameters; no step writes them (60_exceptions.md R137; log entry 2). -/
  config : Config.Params
  /-- MODEL'S OWN: the words the host has still to present, oldest first (log entry 9). -/
  port : List Command
  /-- MODEL'S OWN: the schedule still to come, oldest first (log entry 4). -/
  turns : List Turn
  /-- MODEL'S OWN: how many free values have been taken (log entry 6). -/
  draws : Nat
deriving DecidableEq, Repr

/-- Why the machine could stop with a fault. There is no reason: nothing in the spec is undefined and every
step of every agent is total (70_reset_and_hazards.md R159, 60_exceptions.md R138), so nobody raises one (safe). The
spec's own faults are `Raised`: latched and answered, after which the machine goes on. -/
inductive Fault
deriving DecidableEq, Repr

/-- Why the machine could refuse an instruction. -/
inductive Refusal where
  /-- The instruction has no meaning in this model. Raised by no arm of `exec`: every one has its meaning (safe). -/
  | notModelled (mnemonic : String)
deriving DecidableEq, Repr

/-- One channel at release of hardware reset (10_state.md R42): all zero, Forward. -/
def Chan.reset (w : Nat) : Chan w :=
  { enabled := false, direction := .forward, top := 0, cmp := 0, prescaler := 0, cs := 0, cnt := 0,
    pulse := false, edgeCount := 0, ip := false, ie := false, ovr := false }

/-- The machine at release of hardware reset (10_state.md R42). The parameters are the supplied ones, the
threshold at its reference value (00_scope.md R6); nothing is presented and nothing scheduled yet. -/
def State.reset : State :=
  { left := Chan.reset 8, right := Chan.reset 16,
    inited := false, fault := 0x00, status := 0x00, value := 0, snap := 0, savedIe := false, seq := .idle,
    trace := [], config := { Config.supplied.params with rpmThreshold := 500 },
    port := [], turns := [], draws := 0 }

/-- One channel of the state, at its width. -/
def State.chan (s : State) (c : Channel) : Chan (width c) :=
  match c with
  | .left => s.left
  | .right => s.right

/-- The state with one channel replaced. -/
def State.setChan (s : State) (c : Channel) (k : Chan (width c)) : State :=
  match c, k with
  | .left, k => { s with left := k }
  | .right, k => { s with right := k }

end Sys2Proof.Machine
end

