-- ==== Sys2Proof/Machine/Flags.lean ====
section
/-! DEFINITION. The flag and code computations: the status codes (30_encoding.md R60), which of two is worse
(45_facade.md R115), the report of a clamp, and how a toggle raises the event flags (41_pulse_channel.md R88). -/

namespace Sys2Proof.Machine

/-- The number of a status (30_encoding.md R60). -/
def Status.code : Status → Byte
  | .ok => 0x00
  | .clamped => 0x01
  | .invalidSpeed => 0x02
  | .invalidChannel => 0x10
  | .illegalCommand => 0x11
  | .notInitialised => 0x12
  | .faulted => 0x1F

/-- The status a raised fault is answered with; its code is also what `fault` holds (60_exceptions.md R122). -/
def Raised.status : Raised → Status
  | .invalidChannel => .invalidChannel
  | .illegalCommand => .illegalCommand
  | .notInitialised => .notInitialised

/-- The fault a rejected word raises (30_encoding.md R64 (2) to (4)). -/
def rejectRaises : Reject → Raised
  | .illegalOpcode => .illegalCommand
  | .reservedBits => .illegalCommand
  | .invalidChannel => .invalidChannel

/-- `Clamped` reports a clamp, else `OK` (40_mapper.md R77, 41_pulse_channel.md R85). -/
def clampStatus (clamped : Bool) : Status := if clamped then .clamped else .ok

/-- `max` of two codes, compared as unsigned 8-bit values (45_facade.md R115, 40_mapper.md R161 (7)). -/
def maxCode (a b : Byte) : Byte := if a.toNat < b.toNat then b else a

/-- A toggle raises the edge event: pending, or overrun if one is pending already (41_pulse_channel.md R88,
60_exceptions.md R131). -/
def Chan.raiseEvent {w : Nat} (k : Chan w) : Chan w :=
  if k.ip then { k with ovr := true } else { k with ip := true }

/-- `Handler[c]` is enabled iff `ip[c] = 1 and ie[c] = 1` (60_exceptions.md R127). -/
def Chan.eventDue {w : Nat} (k : Chan w) : Bool := k.ip && k.ie

/-- The logical value written to the direction bit: 0 = Forward, 1 = Reverse (10_state.md R19). -/
def Direction.bit : Direction → Bool
  | .forward => false
  | .reverse => true

end Sys2Proof.Machine
end

