-- ==== Sys2Proof/Machine/Operands.lean ====
section
/-! DEFINITION. How operands become what is written (30_encoding.md R63) and how response values are packed
(30_encoding.md R59); the bytes of a 32-bit value (20_memory.md R45). -/

namespace Sys2Proof.Machine

/-- The direction a `forward` operand selects: 1 = Forward (30_encoding.md R63, 43_dir_enable.md R103). -/
def directionOfForward (forward : Bool) : Direction := if forward then .forward else .reverse

/-- The direction of a signed step count: negative is Reverse, zero is Forward (44_step_burst.md R106). -/
def directionOfSteps (steps : Int) : Direction := if steps < 0 then .reverse else .forward

/-- `n = |steps|`, computed without overflow (44_step_burst.md R106, 40_mapper.md R161 (6)). -/
def magnitude (steps : Int) : Nat := steps.natAbs

/-- A compare target limited to the channel's range, and whether it had to be: clamped, not wrapped
(40_mapper.md R77, 41_pulse_channel.md R85). -/
def clampTop (c : Channel) (t : Nat) : Nat × Bool :=
  if topMax c < t then (topMax c, true) else (t, false)

/-- The response value of `MAP_SPEED`: 13 zero bits, `ps[2:0]`, `top[15:0]` (30_encoding.md R59). -/
def packSetting (ps : Code) (top : Nat) : Word := (0 : BitVec 13) ++ ps ++ BitVec.ofNat 16 top

/-- The response value of `SET_SPEED_BOTH`: 16 zero bits, Right's status, Left's status (30_encoding.md R59). -/
def packStatuses (sL sR : Byte) : Word := (0 : BitVec 16) ++ sR ++ sL

/-- `step_count = edge_count >> 1` (10_state.md R27). -/
def halve (v : Word) : Word := v >>> 1

/-- Byte `i` of a 32-bit value: bits `8*i+7 : 8*i` (20_memory.md R45). -/
def byteOf (v : Word) (i : Nat) : Byte := v.extractLsb' (8 * i) 8

/-- The value with byte `i` replaced, every other byte kept (20_memory.md R45). -/
def setByte (v : Word) (i : Nat) (b : Byte) : Word :=
  (v &&& ~~~ ((0xFF : Word) <<< (8 * i))) ||| (b.setWidth 32 <<< (8 * i))

end Sys2Proof.Machine
end

