-- ==== Sys2Proof/Machine/Ops.lean ====
section
/-! DEFINITION. The named operations every meaning is written with: ending a command (response, condition,
raised fault, refusal), admitting one, taking an edge event, hardware reset, the critical section, and the
pins and identifiers by which the state is seen from outside. -/

namespace Sys2Proof.Machine

/-- `Emit(e)` (00_scope.md R13). -/
def State.emit (s : State) (e : Event) : State := { s with trace := s.trace ++ [e] }

/-- `respond(st, v)`: the response, and the port is ready again (00_scope.md R13, 30_encoding.md R59). -/
def State.respond (s : State) (st : Byte) (v : Word) : State :=
  { s with status := st, value := v, seq := .idle }

/-- `cond InvalidSpeed`: the recoverable condition, nothing else changes (60_exceptions.md R120, R121). -/
def State.condInvalidSpeed (s : State) : State := s.respond Status.invalidSpeed.code 0

/-- `raise <Fault>`, taking a synchronous exception: the code goes to the sticky `fault` register and to
`status`, `value` is 0, the port is ready, and nothing else changes (60_exceptions.md R122). Nothing is
saved, there is no vector and no return: only hardware reset clears the latch. -/
def State.raise (s : State) (r : Raised) : State :=
  { s.respond r.status.code 0 with fault := r.status.code }

/-- Refusal while a fault is latched: answered `Faulted`, nothing else changes (60_exceptions.md R123). -/
def State.refuse (s : State) : State := s.respond Status.faulted.code 0

/-- What a word that is no command does: the refusal if a fault is latched, else the fault its rejection
raises (30_encoding.md R64 (1) to (4)). While a command is in progress the port accepts nothing (R72; log
entry 11). -/
def State.rejectWord (s : State) (e : Reject) : State :=
  if s.seq ≠ .idle then s
  else if s.fault ≠ 0 then s.refuse
  else s.raise (rejectRaises e)

/-- Checks (1) and (5) of 30_encoding.md R64 before a command other than `INIT` executes. While a command is
in progress the port accepts nothing (R72; log entry 11). -/
def State.ifReady (s : State) (body : State → State) : State :=
  if s.seq ≠ .idle then s
  else if s.fault ≠ 0 then s.refuse
  else if s.inited = false then s.raise .notInitialised
  else body s

/-- Check (1) before `INIT` executes: it is the one command accepted while `inited = 0` (45_facade.md R113). -/
def State.initIfReady (s : State) (body : State → State) : State :=
  if s.seq ≠ .idle then s
  else if s.fault ≠ 0 then s.refuse
  else body s

/-- `Handler[c]`'s one step, taking an edge event: the counter goes up by 1 modulo 2^32 and the pending bit is
cleared (42_edge_counter.md R91, R92). Nothing is saved and the return is the end of the step: no
instruction returns and nothing is restored (60_exceptions.md R129). -/
def State.takeEdgeEvent (s : State) (c : Channel) : State :=
  (s.setChan c { s.chan c with edgeCount := (s.chan c).edgeCount + 1, ip := false }).emit (.edge c)

/-- Hardware reset: every element of 10_state.md R17 gets its reset value in one step, a command in progress is
abandoned without a response (70_reset_and_hazards.md R140, R145). What is not the block's state stays: the
parameters, the host's words, the schedule, the trace (R141; log entry 13). -/
def State.hardwareReset (s : State) : State :=
  { s with left := Chan.reset 8, right := Chan.reset 16, inited := false, fault := 0x00, status := 0x00,
           value := 0, snap := 0, savedIe := false, seq := .idle }

/-- Critical-section entry on `c`: `saved_ie <- ie[c]; ie[c] <- 0` (20_memory.md R51). -/
def State.enterSection (s : State) (c : Channel) : State :=
  { s.setChan c { s.chan c with ie := false } with savedIe := (s.chan c).ie }

/-- Critical-section exit on `c`: `ie[c] <- saved_ie`, a restore and not an enable (20_memory.md R52). -/
def State.exitSection (s : State) (c : Channel) : State :=
  s.setChan c { s.chan c with ie := s.savedIe }

/-- Write `enabled[c]` and let the pin follow (43_dir_enable.md R101, R102). -/
def State.writeEnable (s : State) (c : Channel) (flag : Bool) : State :=
  (s.setChan c { s.chan c with enabled := flag }).emit (.pinWrite c .en flag)

/-- Write `direction[c]` and let the pin follow (43_dir_enable.md R101, R103). -/
def State.writeDirection (s : State) (c : Channel) (d : Direction) : State :=
  (s.setChan c { s.chan c with direction := d }).emit (.pinWrite c .dir d.bit)

/-- The host writes an absolute level to `pulse[c]`, then lets a half period pass (44_step_burst.md R107). -/
def State.writePulse (s : State) (c : Channel) (level : Bool) : State :=
  ((s.setChan c { s.chan c with pulse := level }).emit (.pinWrite c .pulse level)).emit
    (.delay halfPeriodUnits)

/-- How many host micro-steps the command in progress still takes (30_encoding.md R72, 20_memory.md R56). -/
def Seq.microStepsLeft : Seq → Nat
  | .idle => 0
  | .snap _ i => 5 - i.val
  | .zero .left i => 10 - i.val
  | .zero .right i => 5 - i.val
  | .burst _ n .high => 2 * n
  | .burst _ n .low => 2 * n - 1

/-- `step_count(c)`, a function of state (10_state.md R27). -/
def State.stepCount (s : State) (c : Channel) : Word := halve (s.chan c).edgeCount

/-- What a pin shows (10_state.md R40): not driven while `inited = 0`, else an electrical level. -/
inductive PinLevel where
  | undriven
  | driven (level : Bool)
deriving DecidableEq, Repr

/-- The six output pins as functions of state (10_state.md R40). -/
def State.pin (s : State) (c : Channel) (p : Pin) : PinLevel :=
  if s.inited = false then .undriven
  else match p with
    | .pulse => .driven (s.chan c).pulse
    | .dir => .driven (s.config.dirFwd c ^^ (s.chan c).direction.bit)
    | .en => .driven (!(s.config.enActive c ^^ (s.chan c).enabled))

/-- One bit as a read-out value. -/
def bitValue (b : Bool) : Word := if b then 1 else 0

/-- The twelve per-channel elements by identifier (20_memory.md R44). -/
def Chan.element {w : Nat} (k : Chan w) (id : Nat) : Option Word :=
  match id with
  | 0x00 => some (bitValue k.enabled)
  | 0x01 => some (bitValue k.direction.bit)
  | 0x02 => some (k.top.setWidth 32)
  | 0x03 => some (k.cmp.setWidth 32)
  | 0x04 => some (k.prescaler.setWidth 32)
  | 0x05 => some (k.cs.setWidth 32)
  | 0x06 => some (k.cnt.setWidth 32)
  | 0x07 => some (bitValue k.pulse)
  | 0x08 => some k.edgeCount
  | 0x09 => some (bitValue k.ip)
  | 0x0A => some (bitValue k.ie)
  | 0x0B => some (bitValue k.ovr)
  | _ => none

/-- A harness's read-out of a state element by identifier: Left at 0x00, Right at 0x20, global at 0x40
(20_memory.md R44). No command uses it. -/
def State.element (s : State) (id : Nat) : Option Word :=
  match id with
  | 0x40 => some (bitValue s.inited)
  | 0x41 => some (s.fault.setWidth 32)
  | 0x42 => some (s.status.setWidth 32)
  | 0x43 => some s.value
  | 0x44 => some s.snap
  | 0x45 => some (bitValue s.savedIe)
  | n => if n < 0x20 then s.left.element n else s.right.element (n - 0x20)

/-- The time-units an event asks for (00_scope.md R15). -/
def Event.units : Event → Nat
  | .delay n => n
  | .pinWrite _ _ _ | .toggle _ _ | .edge _ => 0

/-- The sum of the delays in a trace, in time-units (44_step_burst.md R108). -/
def delayUnits (tr : List Event) : Nat := (tr.map Event.units).sum

/-- The duration of those delays, in the unit `TIME_UNIT` is given in (44_step_burst.md R108). -/
def delayDuration (p : Config.Params) (tr : List Event) : Nat := delayUnits tr * p.timeUnit

end Sys2Proof.Machine
end

