-- ==== Sys2Proof/Machine/DirEnable.lean ====
section
/-! DEFINITION. DirectionEnablePolicy: `ENABLE` and `SET_DIR` (43_dir_enable.md). -/

namespace Sys2Proof.Machine

/-- `ENABLE c, flag` (43_dir_enable.md R102). -/
def execEnable (c : Channel) (flag : Bool) (s : State) : Host.Outcome State Fault Refusal :=
  .next (s.ifReady fun s => (s.writeEnable c flag).respond Status.ok.code 0)

/-- `SET_DIR c, forward` (43_dir_enable.md R103). -/
def execSetDir (c : Channel) (forward : Bool) (s : State) : Host.Outcome State Fault Refusal :=
  .next (s.ifReady fun s => (s.writeDirection c (directionOfForward forward)).respond Status.ok.code 0)

end Sys2Proof.Machine
end

