-- ==== Sys2Proof/Machine/EdgeCounter.lean ====
section
/-! DEFINITION. EdgeCounter: `GET_STEP_COUNT` and `RESET_COUNTS` with their micro-step tables, and `EVT_ENABLE`
(42_edge_counter.md). -/

namespace Sys2Proof.Machine

/-- `GET_STEP_COUNT c`, micro-step 1: the checks, then critical-section entry (42_edge_counter.md R94). The
further micro-steps are `State.snapStep`. -/
def execGetStepCount (c : Channel) (s : State) : Host.Outcome State Fault Refusal :=
  .next (s.ifReady fun s => { s.enterSection c with seq := .snap c 0 })

/-- Micro-steps 2 to 6 of `GET_STEP_COUNT c`: copy byte `i`, or after four bytes exit and respond
(42_edge_counter.md R94). -/
def State.snapStep (s : State) (c : Channel) (i : Fin 5) : State :=
  if i.val < 4 then
    { s with snap := setByte s.snap i.val (byteOf (s.chan c).edgeCount i.val), seq := .snap c (i + 1) }
  else (s.exitSection c).respond Status.ok.code (halve s.snap)

/-- `RESET_COUNTS`, micro-step 1: the checks, then entry on Left (42_edge_counter.md R95). The further
micro-steps are `State.zeroStep`. -/
def execResetCounts (s : State) : Host.Outcome State Fault Refusal :=
  .next (s.ifReady fun s => { s.enterSection .left with seq := .zero .left 0 })

/-- Micro-steps 2 to 11 of `RESET_COUNTS`: zero byte `i`; after Left's four bytes exit on Left and enter on
Right in one step; after Right's exit and respond (42_edge_counter.md R95). -/
def State.zeroStep (s : State) (c : Channel) (i : Fin 5) : State :=
  if i.val < 4 then
    { s.setChan c { s.chan c with edgeCount := setByte (s.chan c).edgeCount i.val 0x00 } with
      seq := .zero c (i + 1) }
  else match c with
    | .left => { (s.exitSection .left).enterSection .right with seq := .zero .right 0 }
    | .right => (s.exitSection .right).respond Status.ok.code 0

/-- `EVT_ENABLE c, flag`: write `ie[c]` (42_edge_counter.md R96). -/
def execEvtEnable (c : Channel) (flag : Bool) (s : State) : Host.Outcome State Fault Refusal :=
  .next (s.ifReady fun s => (s.setChan c { s.chan c with ie := flag }).respond Status.ok.code 0)

end Sys2Proof.Machine
end

