-- ==== Sys2Proof/Machine/Mapper.lean ====
section
/-! DEFINITION. SpeedToTimerConfig, the mapper from RPM to prescaler and compare target, and `MAP_SPEED`
(40_mapper.md). All arithmetic is on natural numbers (R161 (1)). -/

namespace Sys2Proof.Machine

/-- What the mapper answers (40_mapper.md R73). -/
inductive Mapped where
  | invalidSpeed
  | setting (top : Nat) (ps : Code) (clamped : Bool)
deriving DecidableEq, Repr

/-- `freq = floor(rpm * STEPS_PER_REV / 60)` (40_mapper.md R74). -/
def stepFreq (p : Config.Params) (rpm : Nat) : Nat := rpm * p.stepsPerRev / 60

/-- The divisor and its code: two regimes on Left, strict above the threshold, one on Right (40_mapper.md R75). -/
def regime (p : Config.Params) (c : Channel) (rpm : Nat) : Nat × Code :=
  match c with
  | .left => if p.rpmThreshold < rpm then (p.divLHigh, p.psLHigh) else (p.divLLow, p.psLLow)
  | .right => (p.divR, p.psR)

/-- `q = floor(BASE_CLOCK / (2 * freq * div))` (40_mapper.md R76). -/
def quotient (p : Config.Params) (freq div : Nat) : Nat := p.baseClock / (2 * freq * div)

/-- `Map(c, rpm)` (40_mapper.md R79). -/
def mapSpeed (p : Config.Params) (c : Channel) (rpm : Nat) : Mapped :=
  let freq := stepFreq p rpm
  if freq = 0 then .invalidSpeed
  else
    let q := quotient p freq (regime p c rpm).1
    if q = 0 then .invalidSpeed
    else .setting (clampTop c (q - 1)).1 (regime p c rpm).2 (clampTop c (q - 1)).2

/-- `MAP_SPEED c, rpm` (40_mapper.md R80): only the response changes. -/
def execMapSpeed (c : Channel) (rpm : Nat) (s : State) : Host.Outcome State Fault Refusal :=
  .next (s.ifReady fun s =>
    match mapSpeed s.config c rpm with
    | .invalidSpeed => s.condInvalidSpeed
    | .setting top ps clamped => s.respond (clampStatus clamped).code (packSetting ps top))

end Sys2Proof.Machine
end

