-- ==== Sys2Proof/Machine/PulseChannel.lean ====
section
/-! DEFINITION. PulseChannel: the primitives `Program`, `Start`, `Stop`, the tick of `Timer[c]`, and the commands
`PROGRAM`, `START`, `STOP` (41_pulse_channel.md). -/

namespace Sys2Proof.Machine

/-- `Program(c, t, ps)`: `top`, `cmp = t >> 1` and `prescaler` in one write (41_pulse_channel.md R82). -/
def Chan.program {w : Nat} (k : Chan w) (t : Nat) (ps : Code) : Chan w :=
  { k with top := BitVec.ofNat w t, cmp := BitVec.ofNat w t >>> 1, prescaler := ps }

/-- `Start(c)`: `cs <- prescaler` (41_pulse_channel.md R83). -/
def Chan.start {w : Nat} (k : Chan w) : Chan w := { k with cs := k.prescaler }

/-- `Stop(c)`: `cs <- 0` (41_pulse_channel.md R84). -/
def Chan.stop {w : Nat} (k : Chan w) : Chan w := { k with cs := 0 }

/-- The counter after a tick: 0 after the match at `top`, else up by one modulo `2^w` (41_pulse_channel.md R88). -/
def Chan.nextCnt {w : Nat} (k : Chan w) : BitVec w := if k.cnt = k.top then 0 else k.cnt + 1

/-- One tick of the channel's timer, tests on the counter before the step (41_pulse_channel.md R88). -/
def Chan.tick {w : Nat} (k : Chan w) : Chan w :=
  if k.cnt = k.cmp then { ({ k with pulse := !k.pulse } : Chan w).raiseEvent with cnt := k.nextCnt }
  else { k with cnt := k.nextCnt }

/-- The step of `Timer[c]`: the tick, and the toggle event if this is the match at `cmp` (41_pulse_channel.md R88). -/
def State.tick (s : State) (c : Channel) : State :=
  if (s.chan c).cnt = (s.chan c).cmp
  then (s.setChan c (s.chan c).tick).emit (.toggle c (!(s.chan c).pulse))
  else s.setChan c (s.chan c).tick

/-- `PROGRAM c, top, ps` (41_pulse_channel.md R85). -/
def execProgram (c : Channel) (top : Nat) (ps : Code) (s : State) : Host.Outcome State Fault Refusal :=
  .next (s.ifReady fun s =>
    if ps = 0 ∨ s.config.divisor c ps = none then s.raise .illegalCommand
    else (s.setChan c ((s.chan c).program (clampTop c top).1 ps)).respond
      (clampStatus (clampTop c top).2).code 0)

/-- `START c` (41_pulse_channel.md R86). -/
def execStart (c : Channel) (s : State) : Host.Outcome State Fault Refusal :=
  .next (s.ifReady fun s => (s.setChan c (s.chan c).start).respond Status.ok.code 0)

/-- `STOP c` (41_pulse_channel.md R87). -/
def execStop (c : Channel) (s : State) : Host.Outcome State Fault Refusal :=
  .next (s.ifReady fun s => (s.setChan c (s.chan c).stop).respond Status.ok.code 0)

end Sys2Proof.Machine
end

