-- ==== Sys2Proof/Machine/Facade.lean ====
section
/-! DEFINITION. The facade's own commands: `INIT`, `SET_SPEED`, `SET_SPEED_BOTH`, `STOP_ALL` (45_facade.md). -/

namespace Sys2Proof.Machine

/-- One channel after `INIT`: as after reset, with its edge events enabled (45_facade.md R113). -/
def Chan.initialised (w : Nat) : Chan w := { Chan.reset w with ie := true }

/-- `INIT`: both channels Disabled and Stopped in one step; `fault`, `snap`, `saved_ie` are not written
(45_facade.md R113). It emits no pin event (log entry 12). -/
def execInit (s : State) : Host.Outcome State Fault Refusal :=
  .next (s.initIfReady fun s =>
    { s with left := Chan.initialised 8, right := Chan.initialised 16, inited := true }.respond
      Status.ok.code 0)

/-- What `SET_SPEED` does to one channel, with the status it earns: `Program` and `Start` at the mapped setting,
or nothing if the speed is rejected (45_facade.md R114, R115). -/
def State.applySpeed (s : State) (c : Channel) (rpm : Nat) : State × Status :=
  match mapSpeed s.config c rpm with
  | .invalidSpeed => (s, .invalidSpeed)
  | .setting top ps clamped => (s.setChan c ((s.chan c).program top ps).start, clampStatus clamped)

/-- `SET_SPEED c, rpm` (45_facade.md R114). -/
def execSetSpeed (c : Channel) (rpm : Nat) (s : State) : Host.Outcome State Fault Refusal :=
  .next (s.ifReady fun s => (s.applySpeed c rpm).1.respond (s.applySpeed c rpm).2.code 0)

/-- `SET_SPEED_BOTH rpm_l, rpm_r`: Left, then Right, each whatever became of the other; the worse status and
both of them packed (45_facade.md R115). -/
def execSetSpeedBoth (rpmL rpmR : Nat) (s : State) : Host.Outcome State Fault Refusal :=
  .next (s.ifReady fun s =>
    let l := s.applySpeed .left rpmL
    let r := l.1.applySpeed .right rpmR
    r.1.respond (maxCode l.2.code r.2.code) (packStatuses l.2.code r.2.code))

/-- `STOP_ALL`: both drivers disabled, then both timers halted, in one step (45_facade.md R116). -/
def execStopAll (s : State) : Host.Outcome State Fault Refusal :=
  .next (s.ifReady fun s =>
    let s := (s.writeEnable .left false).writeEnable .right false
    let s := s.setChan .left (s.chan .left).stop
    let s := s.setChan .right (s.chan .right).stop
    s.respond Status.ok.code 0)

end Sys2Proof.Machine
end

