-- ==== Sys2Proof/Machine/StepBurst.lean ====
section
/-! DEFINITION. SoftwareStepBurst: `MOVE` and its pulse micro-steps (44_step_burst.md). -/

namespace Sys2Proof.Machine

/-- `MOVE c, steps`, micro-step 1: enable, then direction, then the burst unless there is nothing to produce
(44_step_burst.md R106). The further micro-steps are `State.burstStep`. -/
def execMove (c : Channel) (steps : Int) (s : State) : Host.Outcome State Fault Refusal :=
  .next (s.ifReady fun s =>
    let s := (s.writeEnable c true).writeDirection c (directionOfSteps steps)
    if magnitude steps = 0 then s.respond Status.ok.code 0
    else { s with seq := .burst c (magnitude steps) .high })

/-- The pulse micro-steps: write 1, then write 0; the last Low step responds (44_step_burst.md R107). A burst
with no cycle left is reached by no run (log entry 18). -/
def State.burstStep (s : State) (c : Channel) (n : Nat) (phase : Phase) : State :=
  match phase with
  | .high => { s.writePulse c true with seq := .burst c n .low }
  | .low =>
    if 1 < n then { s.writePulse c false with seq := .burst c (n - 1) .high }
    else (s.writePulse c false).respond Status.ok.code 0

end Sys2Proof.Machine
end

