-- ==== Sys2Proof/Machine/Dispatch.lean ====
section
/-! DEFINITION. One arm per command: the accepting micro-step of each (30_encoding.md R64, R72). -/

namespace Sys2Proof.Machine

/-- The host's accepting micro-step for a decoded command. -/
def exec (i : Instr) (s : State) : Host.Outcome State Fault Refusal :=
  match i with
  | .init => Sys2Proof.Machine.execInit s
  | .enable c flag => Sys2Proof.Machine.execEnable c flag s
  | .setDir c forward => Sys2Proof.Machine.execSetDir c forward s
  | .setSpeed c rpm => Sys2Proof.Machine.execSetSpeed c rpm s
  | .setSpeedBoth rpmL rpmR => Sys2Proof.Machine.execSetSpeedBoth rpmL rpmR s
  | .move c steps => Sys2Proof.Machine.execMove c steps s
  | .stopAll => Sys2Proof.Machine.execStopAll s
  | .resetCounts => Sys2Proof.Machine.execResetCounts s
  | .getStepCount c => Sys2Proof.Machine.execGetStepCount c s
  | .program c top ps => Sys2Proof.Machine.execProgram c top ps s
  | .start c => Sys2Proof.Machine.execStart c s
  | .stop c => Sys2Proof.Machine.execStop c s
  | .mapSpeed c rpm => Sys2Proof.Machine.execMapSpeed c rpm s
  | .evtEnable c flag => Sys2Proof.Machine.execEvtEnable c flag s

end Sys2Proof.Machine
end

