-- ==== Sys2Proof/Machine/Port.lean ====
section
/-! DEFINITION. The command port: presenting a word, and the host's turn (30_encoding.md R64, R72). -/

namespace Sys2Proof.Machine

/-- The block answers a presented word: the command it decodes to, or its rejection (30_encoding.md R64). -/
def present (w : Command) (s : State) : Host.Outcome State Fault Refusal :=
  match decode w with
  | .ok i => exec i s
  | .error e => .next (s.rejectWord e)

/-- The next micro-step of the command in progress, a fixed function of `seq` (10_state.md R37, 45_facade.md R162). -/
def State.continueCommand (s : State) : State :=
  match s.seq with
  | .idle => s
  | .snap c i => s.snapStep c i
  | .zero c i => s.zeroStep c i
  | .burst c n phase => s.burstStep c n phase

/-- The host's turn: the next micro-step of the command in progress, else the next word it has to present, else
it waits (30_encoding.md R72, 00_scope.md R12(d)). A word is sampled once, in the step that accepts it
(20_memory.md R56). -/
def hostTurn (s : State) : Host.Outcome State Fault Refusal :=
  match s.seq, s.port with
  | .idle, [] => .next s
  | .idle, w :: rest => present w { s with port := rest }
  | _, _ => .next s.continueCommand

/-- The state in which the very next step is the host's and presents this word: it stands first at the port, the
host's turn is first, the port is ready, and no enabled handler goes before it (log entry 10). -/
def State.offerWord (s : State) (w : Command) : State :=
  { s with
    left := { s.left with ip := s.left.ip && !s.left.ie },
    right := { s.right with ip := s.right.ip && !s.right.ie },
    seq := .idle, port := w :: s.port, turns := .host :: s.turns }

end Sys2Proof.Machine
end

