-- ==== Sys2Proof/Machine/Schedule.lean ====
section
/-! DEFINITION. Who moves next (00_scope.md R11, R12): an enabled handler, else the agent whose turn it is. The
choices the spec leaves free are read from State's `turns`, and from the free values of Config where it ends. -/

namespace Sys2Proof.Machine

/-- Whose turn it is: the first of the schedule, or a free value where the schedule has ended (log entry 4). -/
def State.nextTurn (s : State) : Turn :=
  match s.turns with
  | t :: _ => t
  | [] => Config.turn s.draws

/-- The turn is used up; a turn that was a free value counts as drawn. -/
def State.endTurn (s : State) : State :=
  match s.turns with
  | _ :: rest => { s with turns := rest }
  | [] => { s with draws := s.draws + 1 }

/-- Both handlers are enabled and the turn names neither: which goes first is a free value, counted as drawn
(00_scope.md R12(a); log entry 5). -/
def State.tie (s : State) (t : Turn) : Bool :=
  s.left.eventDue && s.right.eventDue && (t ≠ .handler .left && t ≠ .handler .right)

/-- The handler that goes next, if any is enabled (00_scope.md R12(a), 60_exceptions.md R128). -/
def State.dueHandler (s : State) (t : Turn) : Option Channel :=
  match s.left.eventDue, s.right.eventDue with
  | false, false => none
  | true, false => some .left
  | false, true => some .right
  | true, true =>
    match t with
    | .handler c => some c
    | .host | .timer _ | .reset => some (Config.handlerFirst s.draws)

/-- The schedule after `Handler[c]` went first at turn `t`: the turn is used up if it was this handler's, else it
is still to come (log entry 4). -/
def State.afterHandler (s : State) (t : Turn) (c : Channel) : State :=
  if t = .handler c then s.endTurn
  else if s.tie t then { s with draws := s.draws + 1 }
  else s

/-- The turn of `Timer[c]`: a tick if its clock runs (41_pulse_channel.md R88), else the turn passes. -/
def State.timerTurn (s : State) (c : Channel) : State :=
  if (s.chan c).cs = 0 then s else s.tick c

/-- One step at turn `t`: hardware reset if the environment applies it (70_reset_and_hazards.md R140), else an
enabled handler (00_scope.md R12(a)), else the agent whose turn it is (R12(b)). A turn of an agent that has no
step to take passes (log entry 7). -/
def runTurn (t : Turn) (s : State) : Host.Outcome State Fault Refusal :=
  match t, s.dueHandler t with
  | .reset, _ => .next s.endTurn.hardwareReset
  | _, some c => .next ((s.afterHandler t c).takeEdgeEvent c)
  | .host, none => hostTurn s.endTurn
  | .timer c, none => .next (s.endTurn.timerTurn c)
  | .handler _, none => .next s.endTurn

end Sys2Proof.Machine
end

