-- ==== Sys2Proof/Machine/Step.lean ====
section
/-! DEFINITION. One step of the block (00_scope.md R12), and how one word is placed so that the next step runs it. -/

namespace Sys2Proof.Machine

/-- One atomic step of one agent, or hardware reset. -/
def step (s : State) : Host.Outcome State Fault Refusal := runTurn s.nextTurn s

/-- The state whose very next step presents this word of the opcode table (log entry 10). -/
def State.withFetchWord (s : State) (nbits w : Nat) : State := s.offerWord (tableWord nbits w)

end Sys2Proof.Machine
end

