-- ==== Sys2Proof/Machine/Assembler.lean ====
section
/-! DEFINITION. Reading assembler text (30_encoding.md R70, R71): what one line of a program stands for. The block
reads no text; this is how a program's lines become the words that the host presents. -/

namespace Sys2Proof

/-- One line of a program. -/
inductive Line where
  /-- Nothing, or a comment only. -/
  | blank
  /-- A command word, with all of its micro-steps or only the first `k` (suffix `/k`). -/
  | command (w : Command) (microSteps : Option Nat)
  /-- `.tick c, n`. -/
  | tick (c : Channel) (n : Nat)
  /-- `.cont k`, or `.cont` alone: all the micro-steps that remain. -/
  | cont (microSteps : Option Nat)
  /-- `.expect` and what is expected: it does nothing. -/
  | expect
  /-- The line of program P5 at which the environment applies hardware reset. -/
  | hardwareReset
deriving DecidableEq, Repr

namespace Line

/-- A space or a tab. -/
def isBlank (ch : Char) : Bool := ch == ' ' || ch == '\t'

/-- The text without the blanks at its two ends. -/
def trim (t : List Char) : List Char := ((t.dropWhile isBlank).reverse.dropWhile isBlank).reverse

/-- The text before the first `sep`, and the text after it if there is one. -/
def cut (sep : Char) : List Char → List Char × Option (List Char)
  | [] => ([], none)
  | ch :: t => if ch == sep then ([], some t) else (ch :: (cut sep t).1, (cut sep t).2)

/-- The parts of the text between the commas, trimmed; empty text has no part. -/
def operands (t : List Char) : List (List Char) :=
  if trim t = [] then [] else go t
where
  /-- The parts, one at least. -/
  go : List Char → List (List Char)
    | [] => [[]]
    | ch :: t =>
      if ch == ',' then [] :: go t
      else match go t with
        | [] => [[ch]]
        | p :: ps => (ch :: p) :: ps

/-- One digit in a base up to 16. -/
def digit (base : Nat) (ch : Char) : Option Nat :=
  let n := ch.toNat
  let d := if 48 ≤ n ∧ n ≤ 57 then n - 48 else if 97 ≤ n ∧ n ≤ 102 then n - 87
    else if 65 ≤ n ∧ n ≤ 70 then n - 55 else 16
  if d < base then some d else none

/-- The digits of a number, most significant first, after `acc`. -/
def digits (base : Nat) : Nat → List Char → Option Nat
  | acc, [] => some acc
  | acc, ch :: t => (digit base ch).bind fun d => digits base (acc * base + d) t

/-- A decimal number (R70). -/
def decimal (t : List Char) : Option Nat := if t = [] then none else digits 10 0 t

/-- A number, decimal or `0x` hexadecimal (R70); leading zeros are allowed, `0X` is not, and there is no sign (DESIGN
CHOICE, log entry 22). -/
def number (t : List Char) : Option Nat :=
  match t with
  | '0' :: 'x' :: h => if h = [] then none else digits 16 0 h
  | t => decimal t

/-- A number below `bound`. -/
def numberBelow (bound : Nat) (t : List Char) : Option Nat :=
  (number t).bind fun n => if n < bound then some n else none

/-- A 16-bit operand. -/
def half (t : List Char) : Option Half := (numberBelow 65536 t).map (BitVec.ofNat 16)

/-- A signed decimal step count (R70). DESIGN CHOICE (log entry 22): only a minus sign is read; R70 does not say whether
a plus sign may be written, and `+3` is no step count here. -/
def signedHalf (t : List Char) : Option Half :=
  match t with
  | '-' :: d => (decimal d).bind fun n => if n ≤ 32768 then some (BitVec.ofInt 16 (-n)) else none
  | t => (decimal t).bind fun n => if n ≤ 32767 then some (BitVec.ofNat 16 n) else none

/-- A channel operand: `L`, `R`, or a number 0 to 255 (R70). -/
def channel (t : List Char) : Option Byte :=
  if t = "L".toList then some 0x00
  else if t = "R".toList then some 0x01
  else (numberBelow 256 t).map (BitVec.ofNat 8)

/-- A flag, `0` or `1`, with the two words that may stand for 0 and 1 (R70). -/
def flag (no yes : String) (t : List Char) : Option Half :=
  if t = "0".toList ∨ t = no.toList then some 0
  else if t = "1".toList ∨ t = yes.toList then some 1
  else none

/-- The word of an opcode with its fields. -/
def word (o : Opcode) (ch : Option Byte) (a b : Option Half) : Option Command :=
  ch.bind fun ch => a.bind fun a => b.map fun b => pack o.number ch a b

/-- The command a mnemonic stands for with these operands (R61, R70), or a pseudo-instruction (R71). -/
def assembleWord (mnemonic : List Char) (ops : List (List Char)) : Option Command :=
  match ops with
  | [] =>
    if mnemonic = "INIT".toList then word .init (some 0) (some 0) (some 0)
    else if mnemonic = "STOP_ALL".toList then word .stopAll (some 0) (some 0) (some 0)
    else if mnemonic = "RESET_COUNTS".toList then word .resetCounts (some 0) (some 0) (some 0)
    else none
  | [x] =>
    if mnemonic = "GET_STEP_COUNT".toList then word .getStepCount (channel x) (some 0) (some 0)
    else if mnemonic = "START".toList then word .start (channel x) (some 0) (some 0)
    else if mnemonic = "STOP".toList then word .stop (channel x) (some 0) (some 0)
    else if mnemonic = "DISABLE".toList then word .enable (channel x) (some 0) (some 0)
    else if mnemonic = "FWD".toList then word .setDir (channel x) (some 1) (some 0)
    else if mnemonic = "REV".toList then word .setDir (channel x) (some 0) (some 0)
    else if mnemonic = "MASK".toList then word .evtEnable (channel x) (some 0) (some 0)
    else if mnemonic = "UNMASK".toList then word .evtEnable (channel x) (some 1) (some 0)
    else none
  | [x, y] =>
    if mnemonic = "ENABLE".toList then word .enable (channel x) (flag "off" "on" y) (some 0)
    else if mnemonic = "SET_DIR".toList then word .setDir (channel x) (flag "rev" "fwd" y) (some 0)
    else if mnemonic = "SET_SPEED".toList then word .setSpeed (channel x) (half y) (some 0)
    else if mnemonic = "SET_SPEED_BOTH".toList then word .setSpeedBoth (some 0) (half x) (half y)
    else if mnemonic = "MOVE".toList then word .move (channel x) (signedHalf y) (some 0)
    else if mnemonic = "MAP_SPEED".toList then word .mapSpeed (channel x) (half y) (some 0)
    else if mnemonic = "EVT_ENABLE".toList then word .evtEnable (channel x) (flag "off" "on" y) (some 0)
    else none
  | [x, y, z] =>
    if mnemonic = "PROGRAM".toList then
      word .program (channel x) (half y) ((numberBelow 8 z).map (BitVec.ofNat 16))
    else none
  | _ => none

/-- A directive of R71, by its name. -/
def directive (name : List Char) (ops : List (List Char)) : Option Line :=
  if name = ".tick".toList then
    match ops with
    | [x, y] =>
      if x = "L".toList then (number y).map (tick .left)
      else if x = "R".toList then (number y).map (tick .right)
      else none
    | _ => none
  else if name = ".cont".toList then
    match ops with
    | [] => some (cont none)
    | [x] => (number x).map fun k => cont (some k)
    | _ => none
  else if name = ".expect".toList then some expect
  else none

/-- The line that a text stands for; none where it is no line of R70 and R71. A comment starts at `;`. -/
def read (text : List Char) : Option Line :=
  let t := trim (cut ';' text).1
  let (name, rest) := cut ' ' t
  if t = [] then some blank
  else if t = "<hardware reset>".toList then some hardwareReset
  else if t.head? = some '.' then directive name ((operands (rest.getD [])).map trim)
  else match cut '/' t with
    | (_, none) => (assembleWord name ((operands (rest.getD [])).map trim)).map (command · none)
    | (main, some k) =>
      let (name, rest) := cut ' ' (trim main)
      (number (trim k)).bind fun k =>
        (assembleWord name ((operands (rest.getD [])).map trim)).map (command · (some k))

end Line

/-- The line that a string stands for. -/
def assemble (line : String) : Option Line := Line.read line.toList

end Sys2Proof
end

