-- ==== Sys2Proof/Safety.lean ====
section
/-! DEFINITION. The terms the statements are made in: when a command executes, runs of the block, what a trace
holds, and the invariant of the reachable states (10_state.md R41). -/

namespace Sys2Proof

/-- The bits of a word with this opcode that 30_encoding.md R65 reserves: the mask bits outside `OP`, and outside
`CH` where the opcode uses a channel. -/
def Opcode.reservedMask (o : Opcode) : Command :=
  o.maskWord &&& (if o.usesChannel then 0x0000FFFFFFFF else 0x00FFFFFFFFFF)

/-- The channel a command is addressed to, if it is addressed to one (30_encoding.md R58). -/
def Instr.target : Instr → Option Channel
  | .init | .setSpeedBoth _ _ | .stopAll | .resetCounts => none
  | .enable c _ | .setDir c _ | .setSpeed c _ | .move c _ | .getStepCount c | .program c _ _
  | .start c | .stop c | .mapSpeed c _ | .evtEnable c _ => some c

/-- How many host micro-steps a command takes after the accepting one (30_encoding.md R72). -/
def Instr.furtherMicroSteps : Instr → Nat
  | .getStepCount _ => 5
  | .resetCounts => 10
  | .move _ steps => 2 * steps.natAbs
  | .init | .enable _ _ | .setDir _ _ | .setSpeed _ _ | .setSpeedBoth _ _ | .stopAll | .program _ _ _
  | .start _ | .stop _ | .mapSpeed _ _ | .evtEnable _ _ => 0

end Sys2Proof

namespace Sys2Proof.Machine

/-- The port is ready, no fault is latched and `INIT` has been executed: what 30_encoding.md R64 asks before the
value checks of a command other than `INIT`. -/
abbrev State.Ready (s : State) : Prop := s.seq = .idle ∧ s.fault = 0 ∧ s.inited = true

/-- Running: `cs[c] != 0` (45_facade.md R117). -/
abbrev State.Running (s : State) (c : Channel) : Prop := (s.chan c).cs ≠ 0

/-- No handler is enabled (60_exceptions.md R127). -/
abbrev State.NoHandlerDue (s : State) : Prop := s.left.eventDue = false ∧ s.right.eventDue = false

/-- The answer to a word that raises a fault with this code: the latch, the response, and nothing else
(60_exceptions.md R122). -/
def State.answeredFault (s : State) (code : Byte) : State :=
  { s with fault := code, status := code, value := 0, seq := .idle }

/-- The answer while a fault is latched (60_exceptions.md R123). -/
def State.answeredRefusal (s : State) : State := { s with status := 0x1F, value := 0, seq := .idle }

/-- The exceptions of the command with opcode `o`, in the order of 30_encoding.md R64 (1), (3), (4), (5): the
refusal, `IllegalCommand` for a reserved bit, `InvalidChannel`, `NotInitialised`. -/
def ExceptionsInOrder (o : Opcode) : Prop :=
  ∀ (w : Command) (s : State), opField w = o.number → s.seq = .idle →
    (s.fault ≠ 0 → present w s = .next s.answeredRefusal) ∧
    (s.fault = 0 → w &&& o.reservedMask ≠ 0 → present w s = .next (s.answeredFault 0x11)) ∧
    (s.fault = 0 → w &&& o.reservedMask = 0 → o.usesChannel = true → 1 < (chField w).toNat →
      present w s = .next (s.answeredFault 0x10)) ∧
    (s.fault = 0 → w &&& o.reservedMask = 0 → (o.usesChannel = true → (chField w).toNat ≤ 1) →
      s.inited = false → o ≠ .init → present w s = .next (s.answeredFault 0x12))

/-- The divisor that 40_mapper.md R75 puts in use for a speed, written out case by case. -/
def divisorInUse (p : Config.Params) (c : Channel) (rpm : Nat) : Nat :=
  match c with
  | .left => if rpm ≤ p.rpmThreshold then p.divLLow else p.divLHigh
  | .right => p.divR

/-- The code that selects that divisor (40_mapper.md R75). -/
def codeInUse (p : Config.Params) (c : Channel) (rpm : Nat) : Code :=
  match c with
  | .left => if rpm ≤ p.rpmThreshold then p.psLLow else p.psLHigh
  | .right => p.psR

/-- The channel after a speed command with this mapper result: programmed and started, or as it was
(45_facade.md R114). -/
def speedChan {w : Nat} (m : Mapped) (k : Chan w) : Chan w :=
  match m with
  | .invalidSpeed => k
  | .setting top ps _ =>
    { k with top := BitVec.ofNat w top, cmp := BitVec.ofNat w (top / 2), prescaler := ps, cs := ps }

/-- The status code a speed command earns with this mapper result (45_facade.md R115). -/
def speedCode (m : Mapped) : Byte :=
  match m with
  | .invalidSpeed => 0x02
  | .setting _ _ true => 0x01
  | .setting _ _ false => 0x00

/-- Runs of the block whose every state but the last meets `ok`. -/
inductive Reaches (ok : State → Prop) : State → State → Prop where
  | refl (s : State) : Reaches ok s s
  | head {s t u : State} : ok s → step s = .next t → Reaches ok t u → Reaches ok s u

/-- A command is in progress and the environment does not apply hardware reset: the states a command that is
not abandoned passes through (60_exceptions.md R139). -/
def State.InProgress (s : State) : Prop := s.seq ≠ .idle ∧ s.nextTurn ≠ .reset

/-- The state with this turn as the whole schedule. -/
def State.withTurn (s : State) (t : Turn) : State := { s with turns := [t] }

/-- An endless run of the block under an endless schedule: `r n` is its state after `n` steps, `sched n` the turn of
the step that follows. -/
def IsRun (sched : Nat → Turn) (r : Nat → State) : Prop :=
  ∀ n, step ((r n).withTurn (sched n)) = .next (r (n + 1))

/-- At this turn the next step is a tick of `Timer[c]` (41_pulse_channel.md R88). -/
def State.TimerNext (s : State) (t : Turn) (c : Channel) : Prop := t = .timer c ∧ s.NoHandlerDue ∧ s.Running c

/-- At this turn the next step is the host's (00_scope.md R11). -/
def State.HostNext (s : State) (t : Turn) : Prop := t = .host ∧ s.NoHandlerDue

/-- Weak fairness of a run (00_scope.md R12(c)): a timer whose clock keeps running ticks again and again, and a host
whose command stays in progress takes its next micro-step. -/
def FairRun (sched : Nat → Turn) (r : Nat → State) : Prop :=
  (∀ c n, (∀ m, n ≤ m → (r m).Running c) → ∃ m, n ≤ m ∧ (r m).TimerNext (sched m) c) ∧
  (∀ n, (∀ m, n ≤ m → (r m).seq ≠ .idle) → ∃ m, n ≤ m ∧ (r m).HostNext (sched m))

/-- The event is a toggle of this channel by its timer. -/
def Event.isToggle (c : Channel) : Event → Bool
  | .toggle d _ => d == c
  | .pinWrite _ _ _ | .edge _ | .delay _ => false

/-- The event is a step of this channel's handler. -/
def Event.isEdge (c : Channel) : Event → Bool
  | .edge d => d == c
  | .pinWrite _ _ _ | .toggle _ _ | .delay _ => false

/-- The event is a write of the host to this channel's pulse pin. -/
def Event.isPulseWrite (c : Channel) : Event → Bool
  | .pinWrite d .pulse _ => d == c
  | .pinWrite _ .dir _ | .pinWrite _ .en _ | .toggle _ _ | .edge _ | .delay _ => false

/-- `T(c)`: the toggles of channel `c` in a trace (10_state.md R41(f)). -/
def toggles (c : Channel) (tr : List Event) : Nat := tr.countP (Event.isToggle c)

/-- The handler steps of channel `c` in a trace. -/
def edges (c : Channel) (tr : List Event) : Nat := tr.countP (Event.isEdge c)

/-- The next step can zero something of `edge_count[c]`: a zeroing micro-step on `c`, or `INIT` first at a ready
port (10_state.md R26). -/
def State.zeroingNext (s : State) (c : Channel) : Prop :=
  (∃ i : Fin 5, i.val < 4 ∧ s.seq = .zero c i) ∨
  (s.seq = .idle ∧ ∃ w rest, s.port = w :: rest ∧ decode w = .ok .init)

/-- What holds of each channel: `cmp = top >> 1`; a running timer and a configured prescaler have a divisor, and
only after `INIT`; before `INIT` the channel is as reset left it (10_state.md R41(b), (d)). -/
def ChanInv (p : Config.Params) (inited : Bool) (c : Channel) (k : Chan (width c)) : Prop :=
  k.cmp = k.top >>> 1 ∧
  (k.cs ≠ 0 → inited = true ∧ (p.divisor c k.cs).isSome) ∧
  (k.prescaler ≠ 0 → inited = true ∧ (p.divisor c k.prescaler).isSome) ∧
  (inited = false → k = Chan.reset (width c))

/-- What holds while a command is in progress: the channel's events are masked and the bytes handled so far are
right; a burst has between 1 and 32768 cycles to go (10_state.md R37, 20_memory.md R53, 60_exceptions.md R139). -/
def SeqInv (s : State) : Prop :=
  match s.seq with
  | .idle => True
  | .snap c i => s.inited = true ∧ s.fault = 0 ∧ (s.chan c).ie = false ∧
      ∀ j, j < i.val → byteOf s.snap j = byteOf (s.chan c).edgeCount j
  | .zero c i => s.inited = true ∧ s.fault = 0 ∧ (s.chan c).ie = false ∧
      ∀ j, j < i.val → byteOf (s.chan c).edgeCount j = 0
  | .burst c n _ => s.inited = true ∧ s.fault = 0 ∧ (s.chan c).enabled = true ∧ 1 ≤ n ∧ n ≤ 32768

/-- The invariant of the block: the parameters meet 00_scope.md R8, the codes are codes of 30_encoding.md R60, both
channels and the command in progress are as their rules say (10_state.md R41). -/
def BlockInv (s : State) : Prop :=
  s.config.WellFormed ∧
  s.fault ∈ [0x00, 0x10, 0x11, 0x12] ∧
  s.status ∈ [0x00, 0x01, 0x02, 0x10, 0x11, 0x12, 0x1F] ∧
  ChanInv s.config s.inited .left s.left ∧
  ChanInv s.config s.inited .right s.right ∧
  SeqInv s

end Sys2Proof.Machine
end

