-- ==== Sys2Proof/Certificates/Slice0/Obligations.lean ====
section
/-! DEFINITION. The statements for the provers, from the numbered rules of spec/. Every statement about a state
holds for all parameters (`config`), all words still to present (`port`) and all schedules (`turns`, and the
free values where `turns` ends), because these are fields of the state or uninterpreted. -/

open Sys2Proof Sys2Proof.Machine

/-! ## Encoding (30_encoding.md) -/

/-- Decode and encode agree, every operand at every value its field admits (R57, R61, R63). -/
def Obligations.DecodeOfEncodeIsIdentity : Prop :=
  ∀ i : Instr, i.wellFormed = true → decode (encode i) = .ok i

/-- Each command has one word: what decodes to it is its encoding, and its operands are in range (R57, R63, R65). -/
def Obligations.DecodedWordsEncodeBack : Prop :=
  ∀ (w : Command) (i : Instr), decode w = .ok i → i.wellFormed = true ∧ encode i = w

/-- R70: the text of every well-formed command, its operands in the order of R70 and its numbers in decimal, assembles
to the command's word. -/
def Obligations.AssembledTextIsTheEncoding : Prop :=
  ∀ i : Instr, i.wellFormed = true → assemble i.text = some (.command (encode i) none)

/-- R62: a word is a valid encoding of the opcode iff `w & mask = match`; a word with the opcode's `OP` byte that
fails its mask is rejected, by R65 or by R67. -/
def Obligations.ValidEncodingIsMaskMatch : Prop :=
  (∀ (o : Opcode) (w : Command),
    (∃ i, decode w = .ok i ∧ i.opcode = o) ↔ w &&& o.maskWord = o.matchWord) ∧
  (∀ (o : Opcode) (w : Command), opField w = o.number → w &&& o.maskWord ≠ o.matchWord →
    decode w = .error .reservedBits ∨ decode w = .error .invalidChannel)

/-- Words written out field by field in 95_test_vectors.md section 2.1 (DV1 to DV27) decode as they stand there. -/
def Obligations.WrittenOutWordsDecode : Prop :=
  decode 0x010000000000 = .ok .init ∧
  decode 0x020000010000 = .ok (.enable .left true) ∧
  decode 0x030100010000 = .ok (.setDir .right true) ∧
  decode 0x040002580000 = .ok (.setSpeed .left 600) ∧
  decode 0x050002580258 = .ok (.setSpeedBoth 600 600) ∧
  decode 0x0601FFFD0000 = .ok (.move .right (-3)) ∧
  decode 0x060080000000 = .ok (.move .left (-32768)) ∧
  decode 0x090100000000 = .ok (.getStepCount .right) ∧
  decode 0x1000003D0003 = .ok (.program .left 61 3) ∧
  decode 0x130102580000 = .ok (.mapSpeed .right 600) ∧
  decode 0x140000000000 = .ok (.evtEnable .left false) ∧
  decode 0x0A0000000000 = .error .illegalOpcode ∧
  decode 0x070100000000 = .error .reservedBits ∧
  decode 0x090200000000 = .error .invalidChannel ∧
  decode 0x040500000001 = .error .reservedBits

/-- R66: `OP` in `0x00`, `0x0A..0x0F`, `0x15..0xFF` raises `IllegalCommand`; so do the all-zero and the all-ones word. -/
def Obligations.UndefinedOpcodesRaiseIllegalCommand : Prop :=
  ∀ s : State, s.seq = .idle → s.fault = 0 →
    (∀ w : Command,
      (opField w).toNat = 0x00 ∨ (0x0A ≤ (opField w).toNat ∧ (opField w).toNat ≤ 0x0F) ∨
        0x15 ≤ (opField w).toNat →
      present w s = .next (s.answeredFault 0x11)) ∧
    present 0x000000000000 s = .next (s.answeredFault 0x11) ∧
    present 0xFFFFFFFFFFFF s = .next (s.answeredFault 0x11)

/-- R65: in a word whose `OP` is defined, a non-zero reserved bit raises `IllegalCommand` and has no other effect. -/
def Obligations.ReservedBitsRaiseIllegalCommand : Prop :=
  ∀ (o : Opcode) (w : Command) (s : State), s.seq = .idle → s.fault = 0 →
    opField w = o.number → w &&& o.reservedMask ≠ 0 → present w s = .next (s.answeredFault 0x11)

/-- R67: for the ten opcodes that use `CH`, `CH` in `0x02..0xFF` raises `InvalidChannel` and has no other effect
(where no reserved bit is set, R64). -/
def Obligations.ChannelsAboveOneRaiseInvalidChannel : Prop :=
  ∀ (o : Opcode) (w : Command) (s : State), s.seq = .idle → s.fault = 0 →
    o ∈ [.enable, .setDir, .setSpeed, .move, .getStepCount, .program, .start, .stop, .mapSpeed, .evtEnable] →
    opField w = o.number → w &&& o.reservedMask = 0 → 2 ≤ (chField w).toNat →
    present w s = .next (s.answeredFault 0x10)

/-- R64, R124: the first failing check decides: faulted, opcode, reserved bits, channel, initialised, the opcode's
value check; with R124's examples. -/
def Obligations.FirstFailingCheckDecides : Prop :=
  (∀ o : Opcode, ExceptionsInOrder o) ∧
  (∀ (w : Command) (s : State), s.seq = .idle → Opcode.ofByte (opField w) = none →
    (s.fault ≠ 0 → present w s = .next s.answeredRefusal) ∧
    (s.fault = 0 → present w s = .next (s.answeredFault 0x11))) ∧
  (∀ (s : State) (c : Channel) (top rpm : Nat) (ps : Code), s.Ready →
    (ps = 0 ∨ s.config.divisor c ps = none → exec (.program c top ps) s = .next (s.answeredFault 0x11)) ∧
    (mapSpeed s.config c rpm = .invalidSpeed →
      exec (.setSpeed c rpm) s = .next { s with status := 0x02, value := 0 } ∧
      exec (.mapSpeed c rpm) s = .next { s with status := 0x02, value := 0 })) ∧
  (∀ s : State, s.seq = .idle → s.fault = 0 →
    present 0x040500000001 s = .next (s.answeredFault 0x11) ∧
    (s.inited = false → exec (.setSpeed .left 0) s = .next (s.answeredFault 0x12)) ∧
    (s.inited = true → exec (.program .left 499 0) s = .next (s.answeredFault 0x11)))

/-! ## Conditions, faults, refusal (60_exceptions.md) -/

/-- R123: while a fault is latched every presented word, valid or not, is answered `Faulted` and changes nothing
else. -/
def Obligations.EveryWordIsRefusedWhileFaulted : Prop :=
  ∀ (w : Command) (s : State), s.seq = .idle → s.fault ≠ 0 → present w s = .next s.answeredRefusal

/-- R122, R138: `fault` changes only in the accepting micro-step of a command and only while it is 0; hardware reset
apart, a latched fault stays as it is, and the host's word then changes only the response. (The turn, its being used
up, and the queue of words are the model's, log entries 4, 6, 9.) -/
def Obligations.FaultLatchKeepsTheFirstFault : Prop :=
  ∀ s t : State, s.nextTurn ≠ .reset → step s = .next t →
    (s.fault ≠ 0 → t.fault = s.fault) ∧
    (t.fault ≠ s.fault → s.nextTurn = .host ∧ s.NoHandlerDue ∧ s.seq = .idle ∧ s.port ≠ [] ∧
      t.fault ∈ [0x10, 0x11, 0x12] ∧ t.status = t.fault ∧ t.value = 0) ∧
    (∀ (w : Command) (rest : List Command), s.fault ≠ 0 → s.nextTurn = .host → s.NoHandlerDue → s.seq = .idle →
      s.port = w :: rest → t = { s.endTurn with port := rest, status := 0x1F, value := 0 })

/-- R120, R121: a rejected speed ends `SET_SPEED` and `MAP_SPEED` with status 0x02 and value 0 and changes nothing
else; `rpm = 0` is always rejected. -/
def Obligations.RejectedSpeedChangesOnlyTheResponse : Prop :=
  ∀ (s : State) (c : Channel) (rpm : Nat), s.Ready → mapSpeed s.config c rpm = .invalidSpeed ∨ rpm = 0 →
    exec (.setSpeed c rpm) s = .next { s with status := 0x02, value := 0 } ∧
    exec (.mapSpeed c rpm) s = .next { s with status := 0x02, value := 0 }

/-! ## The commands -/

/-- R113: `INIT`. Both channels at their initial values, edge events enabled, `inited` set, pins driven; `fault`,
`snap`, `saved_ie` and everything else not written. Accepted whatever `inited` is. That no pin event is emitted is
log entry 12. -/
def Obligations.InitConfiguresBothChannels : Prop :=
  ExceptionsInOrder .init ∧
  (∀ w : Command, decode w = .ok .init ↔ w = 0x010000000000) ∧
  ∀ s : State, s.seq = .idle → s.fault = 0 →
    ∃ t, exec .init s = .next t ∧
      t = { s with
        left := { enabled := false, direction := .forward, top := 0, cmp := 0, prescaler := 0, cs := 0,
                  cnt := 0, pulse := false, edgeCount := 0, ip := false, ie := true, ovr := false }
        right := { enabled := false, direction := .forward, top := 0, cmp := 0, prescaler := 0, cs := 0,
                   cnt := 0, pulse := false, edgeCount := 0, ip := false, ie := true, ovr := false }
        inited := true, status := 0x00, value := 0 } ∧
      ∀ c p, t.pin c p ≠ .undriven

/-- R102: `ENABLE` writes `enabled[c]`, the pin follows, everything else is unchanged. -/
def Obligations.EnableWritesTheDriverEnable : Prop :=
  ExceptionsInOrder .enable ∧
  decode 0x020000010000 = .ok (.enable .left true) ∧ decode 0x020100000000 = .ok (.enable .right false) ∧
  ∀ (s : State) (c : Channel) (flag : Bool), s.Ready →
    ∃ t, exec (.enable c flag) s = .next t ∧
      t = { s.setChan c { s.chan c with enabled := flag } with
            status := 0x00, value := 0, trace := s.trace ++ [.pinWrite c .en flag] } ∧
      t.pin c .en = .driven (if flag then s.config.enActive c else !s.config.enActive c)

/-- R103: `SET_DIR` writes `direction[c]` (operand 1 = Forward, state bit 0 = Forward), the pin follows, everything
else is unchanged. -/
def Obligations.SetDirWritesTheDirection : Prop :=
  ExceptionsInOrder .setDir ∧
  decode 0x030100010000 = .ok (.setDir .right true) ∧ decode 0x030000000000 = .ok (.setDir .left false) ∧
  ∀ (s : State) (c : Channel) (forward : Bool), s.Ready →
    ∃ t, exec (.setDir c forward) s = .next t ∧
      t = { s.setChan c { s.chan c with direction := if forward then .forward else .reverse } with
            status := 0x00, value := 0, trace := s.trace ++ [.pinWrite c .dir (!forward)] } ∧
      t.pin c .dir = .driven (if forward then s.config.dirFwd c else !s.config.dirFwd c)

/-- R114: `SET_SPEED` programs `top`, `cmp`, `prescaler` and starts the clock at the mapped setting, or answers
`InvalidSpeed` and changes nothing; everything else is unchanged; with the example under CFG-B. -/
def Obligations.SetSpeedProgramsAndStarts : Prop :=
  ExceptionsInOrder .setSpeed ∧
  decode 0x040002580000 = .ok (.setSpeed .left 600) ∧
  (∀ (s : State) (c : Channel) (rpm : Nat), s.Ready →
    exec (.setSpeed c rpm) s = .next { s.setChan c (speedChan (mapSpeed s.config c rpm) (s.chan c)) with
      status := speedCode (mapSpeed s.config c rpm), value := 0 }) ∧
  (∀ s : State, s.Ready → s.config = Config.cfgB →
    exec (.setSpeed .left 600) s = .next { s with
      left := { s.left with top := 61, cmp := 30, prescaler := 3, cs := 3 }, status := 0x00, value := 0 })

/-- R115: `SET_SPEED_BOTH` does both halves independently and answers the worse status and both packed; apart from
the response it reaches the state of `SET_SPEED` on Left, then on Right. -/
def Obligations.SetSpeedBothProgramsEachChannel : Prop :=
  ExceptionsInOrder .setSpeedBoth ∧
  decode 0x050002580000 = .ok (.setSpeedBoth 600 0) ∧
  (∀ (s : State) (rpmL rpmR : Nat), s.Ready →
    exec (.setSpeedBoth rpmL rpmR) s = .next { s with
      left := speedChan (mapSpeed s.config .left rpmL) s.left
      right := speedChan (mapSpeed s.config .right rpmR) s.right
      status := BitVec.ofNat 8 (max (speedCode (mapSpeed s.config .left rpmL)).toNat
        (speedCode (mapSpeed s.config .right rpmR)).toNat)
      value := (0 : BitVec 16) ++ speedCode (mapSpeed s.config .right rpmR) ++
        speedCode (mapSpeed s.config .left rpmL) }) ∧
  (∀ (s t a b : State) (rpmL rpmR : Nat), s.Ready → exec (.setSpeedBoth rpmL rpmR) s = .next t →
    exec (.setSpeed .left rpmL) s = .next a → exec (.setSpeed .right rpmR) a = .next b →
    t = { b with status := t.status, value := t.value }) ∧
  (∀ s : State, s.Ready → s.config = Config.cfgB →
    exec (.setSpeedBoth 600 0) s = .next { s with
      left := { s.left with top := 61, cmp := 30, prescaler := 3, cs := 3 },
      status := 0x02, value := 0x00000200 })

/-- R106: `MOVE`, set-up micro-step: driver enabled, direction from the sign, then the burst of `|steps|` cycles, or
the response at once for 0 steps; everything else is unchanged. -/
def Obligations.MoveSetsUpTheBurst : Prop :=
  ExceptionsInOrder .move ∧
  decode 0x0601FFFD0000 = .ok (.move .right (-3)) ∧ decode 0x060080000000 = .ok (.move .left (-32768)) ∧
  ∀ (s : State) (c : Channel) (steps : Int), s.Ready →
    exec (.move c steps) s = .next { s.setChan c { s.chan c with
        enabled := true, direction := if steps < 0 then .reverse else .forward } with
      trace := s.trace ++ [.pinWrite c .en true, .pinWrite c .dir (decide (steps < 0))]
      seq := if steps = 0 then .idle else .burst c steps.natAbs .high
      status := if steps = 0 then 0x00 else s.status
      value := if steps = 0 then 0 else s.value }

/-- R107: the pulse micro-steps of `MOVE`: write 1 and wait 5, write 0 and wait 5; the last Low step responds;
everything else is unchanged. -/
def Obligations.BurstMicroStepsWriteLevels : Prop :=
  ∀ (s : State) (c : Channel) (n : Nat), 1 ≤ n →
    (s.seq = .burst c n .high →
      hostTurn s = .next { s.setChan c { s.chan c with pulse := true } with
        trace := s.trace ++ [.pinWrite c .pulse true, .delay 5], seq := .burst c n .low }) ∧
    (s.seq = .burst c n .low → 1 < n →
      hostTurn s = .next { s.setChan c { s.chan c with pulse := false } with
        trace := s.trace ++ [.pinWrite c .pulse false, .delay 5], seq := .burst c (n - 1) .high }) ∧
    (s.seq = .burst c n .low → n = 1 →
      hostTurn s = .next { s.setChan c { s.chan c with pulse := false } with
        trace := s.trace ++ [.pinWrite c .pulse false, .delay 5], seq := .idle, status := 0x00, value := 0 })

/-- R116: `STOP_ALL` disables both drivers and clears both clock selections in one step; everything else, the
programmed speed and the counters among it, is unchanged. -/
def Obligations.StopAllDisablesAndHalts : Prop :=
  ExceptionsInOrder .stopAll ∧
  (∀ w : Command, decode w = .ok .stopAll ↔ w = 0x070000000000) ∧
  ∀ s : State, s.Ready →
    exec .stopAll s = .next { s with
      left := { s.left with enabled := false, cs := 0 }
      right := { s.right with enabled := false, cs := 0 }
      status := 0x00, value := 0
      trace := s.trace ++ [.pinWrite .left .en false, .pinWrite .right .en false] }

/-- R95: `RESET_COUNTS`, the whole micro-step table: entry on Left; one byte zeroed a micro-step, byte 0 first; exit
on Left and entry on Right in one step; exit on Right and response. Everything else is unchanged in each. -/
def Obligations.ResetCountsFollowsItsTable : Prop :=
  ExceptionsInOrder .resetCounts ∧
  (∀ w : Command, decode w = .ok .resetCounts ↔ w = 0x080000000000) ∧
  (∀ s : State, s.Ready →
    exec .resetCounts s = .next { s with
      left := { s.left with ie := false }, savedIe := s.left.ie, seq := .zero .left 0 }) ∧
  (∀ (s : State) (c : Channel) (i : Fin 5), s.seq = .zero c i → i.val < 4 →
    ∃ e : Word, byteOf e i.val = 0 ∧ (∀ j, j < 4 → j ≠ i.val → byteOf e j = byteOf (s.chan c).edgeCount j) ∧
      hostTurn s = .next { s.setChan c { s.chan c with edgeCount := e } with seq := .zero c (i + 1) }) ∧
  (∀ s : State, s.seq = .zero .left 4 →
    hostTurn s = .next { s with
      left := { s.left with ie := s.savedIe }, right := { s.right with ie := false }
      savedIe := s.right.ie, seq := .zero .right 0 }) ∧
  (∀ s : State, s.seq = .zero .right 4 →
    hostTurn s = .next { s with
      right := { s.right with ie := s.savedIe }, seq := .idle, status := 0x00, value := 0 })

/-- R94: `GET_STEP_COUNT`, the whole micro-step table: entry; one byte copied a micro-step, byte 0 first; exit and
response `snap >> 1`. Everything else is unchanged in each. -/
def Obligations.GetStepCountFollowsItsTable : Prop :=
  ExceptionsInOrder .getStepCount ∧
  decode 0x090000000000 = .ok (.getStepCount .left) ∧
  (∀ (s : State) (c : Channel), s.Ready →
    exec (.getStepCount c) s = .next { s.setChan c { s.chan c with ie := false } with
      savedIe := (s.chan c).ie, seq := .snap c 0 }) ∧
  (∀ (s : State) (c : Channel) (i : Fin 5), s.seq = .snap c i → i.val < 4 →
    ∃ v : Word, byteOf v i.val = byteOf (s.chan c).edgeCount i.val ∧
      (∀ j, j < 4 → j ≠ i.val → byteOf v j = byteOf s.snap j) ∧
      hostTurn s = .next { s with snap := v, seq := .snap c (i + 1) }) ∧
  (∀ (s : State) (c : Channel), s.seq = .snap c 4 →
    hostTurn s = .next { s.setChan c { s.chan c with ie := s.savedIe } with
      seq := .idle, status := 0x00, value := BitVec.ofNat 32 (s.snap.toNat / 2) })

/-- R85: `PROGRAM` writes `top` (clamped, not wrapped), `cmp` (half of it) and `prescaler`, and reports a clamp; an
unusable code is `IllegalCommand`; everything else is unchanged; with both examples. -/
def Obligations.ProgramWritesTopCmpPrescaler : Prop :=
  ExceptionsInOrder .program ∧
  decode 0x1000003D0003 = .ok (.program .left 61 3) ∧ decode 0x100001F30002 = .ok (.program .left 499 2) ∧
  (∀ (s : State) (c : Channel) (top : Nat) (ps : Code), s.Ready →
    ps = 0 ∨ s.config.divisor c ps = none → exec (.program c top ps) s = .next (s.answeredFault 0x11)) ∧
  (∀ (s : State) (c : Channel) (top : Nat) (ps : Code), s.Ready → ps ≠ 0 → s.config.divisor c ps ≠ none →
    exec (.program c top ps) s = .next { s.setChan c { s.chan c with
        top := BitVec.ofNat (width c) (min top (topMax c))
        cmp := BitVec.ofNat (width c) (min top (topMax c) / 2)
        prescaler := ps } with
      status := if topMax c < top then 0x01 else 0x00, value := 0 }) ∧
  (∀ s : State, s.Ready → s.config.divisor .left 2 ≠ none →
    exec (.program .left 499 2) s = .next { s with
      left := { s.left with top := 255, cmp := 127, prescaler := 2 }, status := 0x01, value := 0 })

/-- R86: `START` copies the configured prescaler to the clock selection; everything else is unchanged. -/
def Obligations.StartCopiesThePrescaler : Prop :=
  ExceptionsInOrder .start ∧ decode 0x110100000000 = .ok (.start .right) ∧
  ∀ (s : State) (c : Channel), s.Ready →
    exec (.start c) s = .next { s.setChan c { s.chan c with cs := (s.chan c).prescaler } with
      status := 0x00, value := 0 }

/-- R87: `STOP` clears the clock selection; everything else is unchanged. -/
def Obligations.StopClearsTheClockSelection : Prop :=
  ExceptionsInOrder .stop ∧ decode 0x120000000000 = .ok (.stop .left) ∧
  ∀ (s : State) (c : Channel), s.Ready →
    exec (.stop c) s = .next { s.setChan c { s.chan c with cs := 0 } with status := 0x00, value := 0 }

/-- R80: `MAP_SPEED` answers the mapper's result and changes only the response; with the example under CFG-B. -/
def Obligations.MapSpeedOnlyAnswers : Prop :=
  ExceptionsInOrder .mapSpeed ∧ decode 0x130002580000 = .ok (.mapSpeed .left 600) ∧
  (∀ (s : State) (c : Channel) (rpm : Nat), s.Ready → mapSpeed s.config c rpm = .invalidSpeed →
    exec (.mapSpeed c rpm) s = .next { s with status := 0x02, value := 0 }) ∧
  (∀ (s : State) (c : Channel) (rpm top : Nat) (ps : Code) (clamped : Bool), s.Ready →
    mapSpeed s.config c rpm = .setting top ps clamped →
    ∃ t, exec (.mapSpeed c rpm) s = .next t ∧
      t = { s with status := if clamped then 0x01 else 0x00, value := t.value } ∧
      t.value.toNat = ps.toNat * 65536 + top) ∧
  (∀ s : State, s.Ready → s.config = Config.cfgB →
    exec (.mapSpeed .left 600) s = .next { s with status := 0x00, value := 0x0003003D })

/-- R96: `EVT_ENABLE` writes `ie[c]`; everything else, the pending bit among it, is unchanged. -/
def Obligations.EvtEnableWritesTheEventEnable : Prop :=
  ExceptionsInOrder .evtEnable ∧
  decode 0x140000000000 = .ok (.evtEnable .left false) ∧ decode 0x140100010000 = .ok (.evtEnable .right true) ∧
  ∀ (s : State) (c : Channel) (flag : Bool), s.Ready →
    exec (.evtEnable c flag) s = .next { s.setChan c { s.chan c with ie := flag } with
      status := 0x00, value := 0 }

/-! ## The mapper (40_mapper.md) -/

/-- R73: an accepted speed has `top` in the channel's range and a code that selects a divisor. -/
def Obligations.MapAnswersInRange : Prop :=
  ∀ (p : Config.Params) (c : Channel) (rpm top : Nat) (ps : Code) (clamped : Bool), p.WellFormed →
    mapSpeed p c rpm = .setting top ps clamped →
    top ≤ topMax c ∧ 1 ≤ ps.toNat ∧ ps.toNat ≤ 7 ∧ p.divisor c ps = some (divisorInUse p c rpm) ∧
      ps = codeInUse p c rpm

/-- R78: rejected exactly if `freq = 0` or the requested rate is above what the divisor can produce. -/
def Obligations.MapRejectsExactlyUnreachableSpeeds : Prop :=
  ∀ (p : Config.Params) (c : Channel) (rpm : Nat), p.WellFormed →
    (mapSpeed p c rpm = .invalidSpeed ↔
      rpm * p.stepsPerRev < 60 ∨
      p.baseClock < 2 * (rpm * p.stepsPerRev / 60) * divisorInUse p c rpm)

/-- R76, R77: `top + 1` is the quotient rounded down, or the range's maximum if the target is above it. -/
def Obligations.MapTargetIsTheRoundedQuotient : Prop :=
  ∀ (p : Config.Params) (c : Channel) (rpm top : Nat) (ps : Code) (clamped : Bool), p.WellFormed →
    mapSpeed p c rpm = .setting top ps clamped →
    (clamped = false →
      (top + 1) * (2 * (rpm * p.stepsPerRev / 60) * divisorInUse p c rpm) ≤ p.baseClock ∧
      p.baseClock < (top + 2) * (2 * (rpm * p.stepsPerRev / 60) * divisorInUse p c rpm)) ∧
    (clamped = true → top = topMax c ∧
      (topMax c + 2) * (2 * (rpm * p.stepsPerRev / 60) * divisorInUse p c rpm) ≤ p.baseClock)

/-! ## The agents and the schedule (00_scope.md R11, R12) -/

/-- A step runs the decoded command: at the host's turn, with no handler due and the port ready, the first word's
command is executed on the state that has used up the turn and the word; and a placed word runs next. (The turn, the
queue of words and placing a word are the model's, log entries 4, 6, 9, 10.) -/
def Obligations.StepRunsTheDecodedCommand : Prop :=
  (∀ (s : State) (w : Command) (rest : List Command) (i : Instr), s.nextTurn = .host → s.NoHandlerDue →
    s.seq = .idle → s.port = w :: rest → decode w = .ok i →
    step s = exec i { s.endTurn with port := rest }) ∧
  (∀ (s : State) (nbits w : Nat) (i : Instr), decodeTableWord nbits w = some i →
    step (s.withFetchWord nbits w) =
      exec i { s.withFetchWord nbits w with port := s.port, turns := s.turns })

/-- R88: a tick of a running timer at its turn: the toggle, the event or the overrun at `cnt = cmp`, the counter back
to 0 at `cnt = top`, else up by one; everything else of the block is unchanged. That the step uses up its turn, and
that a stopped timer's turn passes, is the model's (log entries 4, 6, 7). -/
def Obligations.TimerTickFollowsItsRule : Prop :=
  ∀ (s : State) (c : Channel), s.nextTurn = .timer c → s.NoHandlerDue →
    ((s.chan c).cs ≠ 0 → (s.chan c).cnt = (s.chan c).cmp →
      step s = .next { s.endTurn.setChan c { s.chan c with
          pulse := !(s.chan c).pulse, ip := true
          ovr := if (s.chan c).ip then true else (s.chan c).ovr
          cnt := if (s.chan c).cnt = (s.chan c).top then 0
            else BitVec.ofNat (width c) ((s.chan c).cnt.toNat + 1) } with
        trace := s.trace ++ [.toggle c (!(s.chan c).pulse)] }) ∧
    ((s.chan c).cs ≠ 0 → (s.chan c).cnt ≠ (s.chan c).cmp →
      step s = .next (s.endTurn.setChan c { s.chan c with
          cnt := if (s.chan c).cnt = (s.chan c).top then 0
            else BitVec.ofNat (width c) ((s.chan c).cnt.toNat + 1) })) ∧
    ((s.chan c).cs = 0 → step s = .next s.endTurn)

/-- R88, R89: from `cnt <= top` a timer period is `top + 1` ticks and holds exactly one toggle and one event: `ip` is
set, `ovr` is not, the level is complemented, the counter is back where it was. -/
def Obligations.TimerPeriodTogglesOnce : Prop :=
  ∀ (w : Nat) (k : Chan w), k.cmp.toNat ≤ k.top.toNat → k.cnt.toNat ≤ k.top.toNat → k.ip = false →
    Chan.tick^[k.top.toNat + 1] k = { k with pulse := !k.pulse, ip := true }

/-- R88, R149: a counter above `top` runs up to the wrap without any match: after `2^W - cnt` ticks it is 0 and nothing
else has changed. -/
def Obligations.CounterAboveTopRunsToTheWrap : Prop :=
  ∀ (w : Nat) (k : Chan w), k.cmp.toNat ≤ k.top.toNat → k.top.toNat < k.cnt.toNat →
    Chan.tick^[2 ^ w - k.cnt.toNat] k = { k with cnt := 0 }

/-- 42_edge_counter.md R91, R92: an enabled handler's step adds 1 modulo 2^32, clears `ip` and is traced; everything
else of the block is unchanged; at `0xFFFFFFFF` the count goes to 0, the step count drops from `0x7FFFFFFF` to 0, and
neither a fault nor an overrun records it. Which turn the step uses up and whether a free value was drawn, the fields
`turns` and `draws` after `State.afterHandler`, is the model's choice (log entries 4, 5, 6). -/
def Obligations.HandlerStepCountsOneEvent : Prop :=
  (∀ (s : State) (c : Channel), s.nextTurn ≠ .reset → s.dueHandler s.nextTurn = some c →
    step s = .next { (s.afterHandler s.nextTurn c).setChan c { s.chan c with
        edgeCount := BitVec.ofNat 32 (((s.chan c).edgeCount.toNat + 1) % 2 ^ 32), ip := false } with
      trace := s.trace ++ [.edge c] }) ∧
  (∀ (s t : State) (c : Channel), s.nextTurn ≠ .reset → s.dueHandler s.nextTurn = some c →
    (s.chan c).edgeCount = 0xFFFFFFFF → step s = .next t →
    s.stepCount c = 0x7FFFFFFF ∧ (t.chan c).edgeCount = 0 ∧ t.stepCount c = 0 ∧
      t.fault = s.fault ∧ (t.chan c).ovr = (s.chan c).ovr)

/-- R93: two handler steps, one on each channel, lead to the same state in either order (the ghost trace apart). -/
def Obligations.HandlersCommute : Prop :=
  ∀ (s : State) (tr : List Event),
    { (s.takeEdgeEvent .left).takeEdgeEvent .right with trace := tr } =
    { (s.takeEdgeEvent .right).takeEdgeEvent .left with trace := tr }

/-- R12(a), R127, R128: if a handler is enabled the next step is the step of an enabled handler; it uses up no
other agent's turn; if both are enabled, a handler's turn decides which. (The schedule fields are the model's,
log entries 4, 5, 6.) -/
def Obligations.EnabledHandlersGoFirst : Prop :=
  ∀ s : State, s.nextTurn ≠ .reset → ¬ s.NoHandlerDue →
    ∃ (c : Channel) (t : State), step s = .next t ∧ (s.chan c).ip = true ∧ (s.chan c).ie = true ∧
      t = { s.takeEdgeEvent c with turns := t.turns, draws := t.draws } ∧
      (s.nextTurn ≠ .handler c → t.turns = s.turns) ∧
      (∀ d, s.nextTurn = .handler d → (s.chan d).ip = true → (s.chan d).ie = true → d = c)

/-- R138: a step of a timer or a handler, and a turn that passes, writes neither `fault` nor `status` nor any other
global element, and is total. (Turns, a turn that passes and the queue of words are the model's, log entries 4, 7,
9.) -/
def Obligations.AsynchronousStepsNeverFail : Prop :=
  ∀ s : State, s.nextTurn ≠ .reset → ¬ s.NoHandlerDue ∨ s.nextTurn ≠ .host →
    ∃ t, step s = .next t ∧ t.fault = s.fault ∧ t.status = s.status ∧ t.value = s.value ∧
      t.inited = s.inited ∧ t.snap = s.snap ∧ t.savedIe = s.savedIe ∧ t.seq = s.seq ∧ t.port = s.port

/-- R159, R138: every step of every agent in every state has an outcome, and it is a next state. -/
def Obligations.EveryStepAnswersANextState : Prop :=
  ∀ s : State, ∃ t, step s = .next t

/-! ## Reset (70_reset_and_hazards.md) -/

/-- R42: the reset values of 10_state.md R17, pins not driven. -/
def Obligations.ResetValuesAreAllZero : Prop :=
  (∀ c, State.reset.chan c =
    { enabled := false, direction := .forward, top := 0, cmp := 0, prescaler := 0, cs := 0,
      cnt := 0, pulse := false, edgeCount := 0, ip := false, ie := false, ovr := false }) ∧
  State.reset.inited = false ∧ State.reset.fault = 0x00 ∧ State.reset.status = 0x00 ∧ State.reset.value = 0 ∧
  State.reset.snap = 0 ∧ State.reset.savedIe = false ∧ State.reset.seq = .idle ∧
  ∀ c p, State.reset.pin c p = .undriven

/-- R140, R145: hardware reset at any step boundary, mid-command too, gives every element its reset value in one step
and the pins cease to be driven. That trace, parameters and the host's words stay is log entry 13, that reset is a
turn of the schedule log entries 4, 6. -/
def Obligations.HardwareResetAtAnyBoundary : Prop :=
  ∀ s : State, s.nextTurn = .reset →
    ∃ t, step s = .next t ∧
      t = { State.reset with trace := s.trace, config := s.config, port := s.port,
                             turns := t.turns, draws := t.draws } ∧
      ∀ c p, t.pin c p = .undriven

/-- R142: after reset nothing runs until the host presents a word, whatever the schedule; every valid command but
`INIT` then latches `NotInitialised`. (Turns that pass, the queue of words, and what a further reset keeps are the
model's, log entries 4, 6, 7, 9, 13.) -/
def Obligations.NothingRunsAfterResetUntilAWord : Prop :=
  (∀ s t : State, s.port = [] → step s.hardwareReset = .next t →
    t = { s.hardwareReset with turns := t.turns, draws := t.draws }) ∧
  (∀ (s : State) (i : Instr), i ≠ .init →
    exec i s.hardwareReset = .next { s.hardwareReset with fault := 0x12, status := 0x12 })

/-! ## Invariants and whole-machine rules -/

/-- The invariant of 10_state.md R41 holds at reset. -/
def Obligations.InvariantHoldsAtReset : Prop := BlockInv State.reset

/-- 10_state.md R41(a), (b), (d), R37, 20_memory.md R53: every step from every state that meets the invariant keeps
it. -/
def Obligations.EveryStepKeepsTheInvariant : Prop :=
  ∀ s t : State, BlockInv s → step s = .next t → BlockInv t

/-- 42_edge_counter.md R97, R99: for every interleaving, `GET_STEP_COUNT c` answers the step count of the value
`edge_count[c]` held at its first micro-step, leaves that value, and restores both event enables. -/
def Obligations.SnapshotIsAtomic : Prop :=
  ∀ (c : Channel) (s a t : State), s.Ready → exec (.getStepCount c) s = .next a →
    Reaches State.InProgress a t → t.seq = .idle →
    t.status = 0x00 ∧ t.value = BitVec.ofNat 32 ((s.chan c).edgeCount.toNat / 2) ∧
    (t.chan c).edgeCount = (s.chan c).edgeCount ∧ ∀ d, (t.chan d).ie = (s.chan d).ie

/-- 42_edge_counter.md R95, R99: for every interleaving, when `RESET_COUNTS` responds Right's counter is 0, Left's is
the number of Left's handler steps since the command was accepted, and both event enables are restored. -/
def Obligations.ResetCountsZeroesUnderEverySchedule : Prop :=
  ∀ s a t : State, s.Ready → exec .resetCounts s = .next a →
    Reaches State.InProgress a t → t.seq = .idle →
    ∃ new, t.trace = s.trace ++ new ∧ t.status = 0x00 ∧ t.value = 0 ∧
      (t.chan .right).edgeCount = 0 ∧ (t.chan .left).edgeCount = BitVec.ofNat 32 (edges .left new) ∧
      ∀ d, (t.chan d).ie = (s.chan d).ie

/-- 44_step_burst.md R107 to R110: for every interleaving, a `MOVE` of magnitude `n` writes 1, 0 to the pulse pin
exactly `n` times, high first, waits `10 * n` time-units in all, leaves the driver enabled and the direction as the
sign says, and moves no counter: each counter has moved by its own handler's steps only. -/
def Obligations.MoveProducesExactlyNCycles : Prop :=
  ∀ (c : Channel) (steps : Int) (s a t : State), s.Ready → exec (.move c steps) s = .next a →
    Reaches State.InProgress a t → t.seq = .idle →
    ∃ new, t.trace = s.trace ++ new ∧ t.status = 0x00 ∧ t.value = 0 ∧
      new.filter (Event.isPulseWrite c) =
        (List.replicate steps.natAbs [Event.pinWrite c .pulse true, Event.pinWrite c .pulse false]).flatten ∧
      delayUnits new = 10 * steps.natAbs ∧
      (steps ≠ 0 → (t.chan c).pulse = false) ∧ (t.chan c).enabled = true ∧
      (t.chan c).direction = (if steps < 0 then .reverse else .forward) ∧
      ∀ d, (t.chan d).edgeCount = (s.chan d).edgeCount + BitVec.ofNat 32 (edges d new)

/-- 30_encoding.md R72, 20_memory.md R56: the number of further micro-steps is fixed when the command is accepted (5,
10, `2*|steps|`, else 0); each turn of the host in a command takes exactly one of them and accepts no word; no other
step but hardware reset takes one. -/
def Obligations.CommandsTakeFixedMicroSteps : Prop :=
  (∀ (s t : State) (i : Instr), s.Ready → exec i s = .next t →
    t.seq.microStepsLeft = i.furtherMicroSteps) ∧
  (∀ s t : State, BlockInv s → s.seq ≠ .idle → s.nextTurn ≠ .reset → step s = .next t →
    t.port = s.port ∧
    (s.nextTurn = .host ∧ s.NoHandlerDue →
      t.seq.microStepsLeft + 1 = s.seq.microStepsLeft ∧ (t.seq.microStepsLeft = 0 ↔ t.seq = .idle)) ∧
    (¬ (s.nextTurn = .host ∧ s.NoHandlerDue) → t.seq = s.seq))

/-- 00_scope.md R12(c), 30_encoding.md R72, 60_exceptions.md R139: in every fair run a command in progress ends, by its
own last micro-step or by hardware reset; nothing else makes the port ready. -/
def Obligations.CommandsEndUnderFairness : Prop :=
  ∀ (sched : Nat → Turn) (r : Nat → State), IsRun sched r → FairRun sched r → BlockInv (r 0) →
    ∀ n, (r n).seq ≠ .idle →
      ∃ m, n ≤ m ∧ (∀ k, n ≤ k → k ≤ m → (r k).seq ≠ .idle) ∧ (r (m + 1)).seq = .idle ∧
        (sched m = .reset ∨ (r m).HostNext (sched m) ∧ (r m).seq.microStepsLeft = 1)

/-- 00_scope.md R12(c), 41_pulse_channel.md R88: in every fair run a timer that keeps running at one compare target
toggles again and again, from whatever count it started, the target's being below the count included. -/
def Obligations.RunningTimersToggleUnderFairness : Prop :=
  ∀ (sched : Nat → Turn) (r : Nat → State) (c : Channel) (n : Nat), IsRun sched r → FairRun sched r →
    BlockInv (r 0) → (∀ m, n ≤ m → (r m).Running c ∧ ((r m).chan c).top = ((r n).chan c).top) →
    ∃ m, n ≤ m ∧ (r m).TimerNext (sched m) c ∧
      ((r (m + 1)).chan c).pulse = !((r m).chan c).pulse ∧
      (r (m + 1)).trace = (r m).trace ++ [.toggle c (!((r m).chan c).pulse)]

/-- 20_memory.md R48, 42_edge_counter.md R98, R100: hardware reset apart, `edge_count[c]` changes only by its own
handler's `+1`, by a zeroing micro-step on `c`, or to 0 by `INIT`. -/
def Obligations.EdgeCountHasOneWriter : Prop :=
  ∀ (s t : State) (c : Channel), s.nextTurn ≠ .reset → step s = .next t →
    (t.chan c).edgeCount ≠ (s.chan c).edgeCount →
    (s.dueHandler s.nextTurn = some c ∧ (t.chan c).edgeCount = (s.chan c).edgeCount + 1) ∨
    (s.nextTurn = .host ∧ ∃ i : Fin 5, i.val < 4 ∧ s.seq = .zero c i ∧ byteOf (t.chan c).edgeCount i.val = 0) ∨
    (s.nextTurn = .host ∧ s.seq = .idle ∧ (t.chan c).edgeCount = 0 ∧
      ∃ w rest, s.port = w :: rest ∧ decode w = .ok .init)

/-- 20_memory.md R48: no step of one channel's timer or handler, no command addressed to it and no further micro-step
of one changes anything of the other channel. -/
def Obligations.ChannelsAreIndependent : Prop :=
  (∀ (s t : State) (c d : Channel), d ≠ c → s.nextTurn = .timer c → s.NoHandlerDue → step s = .next t →
    t.chan d = s.chan d) ∧
  (∀ (s t : State) (c d : Channel), d ≠ c → s.nextTurn ≠ .reset → s.dueHandler s.nextTurn = some c →
    step s = .next t → t.chan d = s.chan d) ∧
  (∀ (s t : State) (i : Instr) (c d : Channel), d ≠ c → i.target = some c → exec i s = .next t →
    t.chan d = s.chan d) ∧
  (∀ (s t : State) (c d : Channel), d ≠ c →
    (∃ i, s.seq = .snap c i) ∨ (∃ n phase, s.seq = .burst c n phase) → hostTurn s = .next t →
    t.chan d = s.chan d)

/-- 10_state.md R41(f), 41_pulse_channel.md R90: over any run without hardware reset and without a zeroing of
`edge_count[c]`, if no overrun is recorded at its end, `edge_count[c] + ip[c]` has grown by the number of toggles of
channel `c`, modulo 2^32. -/
def Obligations.TogglesAreCounted : Prop :=
  ∀ (c : Channel) (s t : State),
    Reaches (fun u => u.nextTurn ≠ .reset ∧ ¬ u.zeroingNext c) s t → (t.chan c).ovr = false →
    ∃ new, t.trace = s.trace ++ new ∧
      (t.chan c).edgeCount + (if (t.chan c).ip then 1 else 0) =
        (s.chan c).edgeCount + (if (s.chan c).ip then 1 else 0) + BitVec.ofNat 32 (toggles c new)

/-- 45_facade.md R117, 43_dir_enable.md R104: a command changes `enabled[c]` only if it is `ENABLE c`, `MOVE c`,
`STOP_ALL` or `INIT`, and `cs[c]` only if it is `SET_SPEED c`, `SET_SPEED_BOTH`, `START c`, `STOP c`, `STOP_ALL` or
`INIT`; outside commands only hardware reset changes either. -/
def Obligations.OnlyTheirCommandsEnableOrRun : Prop :=
  (∀ (s t : State) (i : Instr) (c : Channel), exec i s = .next t →
    ((t.chan c).enabled ≠ (s.chan c).enabled →
      (∃ flag, i = .enable c flag) ∨ (∃ steps, i = .move c steps) ∨ i = .stopAll ∨ i = .init) ∧
    ((t.chan c).cs ≠ (s.chan c).cs →
      (∃ rpm, i = .setSpeed c rpm) ∨ (∃ rpmL rpmR, i = .setSpeedBoth rpmL rpmR) ∨ i = .start c ∨ i = .stop c ∨
        i = .stopAll ∨ i = .init)) ∧
  (∀ (s t : State) (c : Channel), s.nextTurn ≠ .reset → step s = .next t →
    ¬ (s.nextTurn = .host ∧ s.NoHandlerDue ∧ s.seq = .idle ∧ s.port ≠ []) →
    (t.chan c).enabled = (s.chan c).enabled ∧ (t.chan c).cs = (s.chan c).cs)

/-- 45_facade.md R118: after an accepted `SET_SPEED c, r` and `STOP_ALL`, both `START c` and `SET_SPEED c, r` bring back
`top`, `cmp`, `prescaler` and `cs` as the first `SET_SPEED` left them. -/
def Obligations.RestartReproducesTheSpeed : Prop :=
  ∀ (s a b t u : State) (c : Channel) (rpm : Nat), s.Ready → mapSpeed s.config c rpm ≠ .invalidSpeed →
    exec (.setSpeed c rpm) s = .next a → exec .stopAll a = .next b →
    exec (.start c) b = .next t → exec (.setSpeed c rpm) b = .next u →
    (b.chan c).cs = 0 ∧
    ((t.chan c).top = (a.chan c).top ∧ (t.chan c).cmp = (a.chan c).cmp ∧
      (t.chan c).prescaler = (a.chan c).prescaler ∧ (t.chan c).cs = (a.chan c).cs) ∧
    ((u.chan c).top = (a.chan c).top ∧ (u.chan c).cmp = (a.chan c).cmp ∧
      (u.chan c).prescaler = (a.chan c).prescaler ∧ (u.chan c).cs = (a.chan c).cs)

/-- 20_memory.md R51, R52: after critical-section entry `Handler[c]` is not enabled whatever `ip[c]` is, the enable is
saved and the other channel keeps its state; exit restores the saved enable, not 1. -/
def Obligations.CriticalSectionSavesAndRestores : Prop :=
  ∀ (s : State) (c : Channel),
    (s.enterSection c) = { s.setChan c { s.chan c with ie := false } with savedIe := (s.chan c).ie } ∧
    ((s.enterSection c).chan c).eventDue = false ∧
    (∀ d, d ≠ c → (s.enterSection c).chan d = s.chan d ∧ (s.exitSection c).chan d = s.chan d) ∧
    s.exitSection c = s.setChan c { s.chan c with ie := s.savedIe } ∧
    ((s.enterSection c).exitSection c).chan c = s.chan c

/-- 10_state.md R40: the six pins. -/
def Obligations.PinsAreFunctionsOfState : Prop :=
  ∀ (s : State) (c : Channel),
    (s.inited = false → ∀ p, s.pin c p = .undriven) ∧
    (s.inited = true →
      s.pin c .pulse = .driven (s.chan c).pulse ∧
      ((s.chan c).direction = .forward → s.pin c .dir = .driven (s.config.dirFwd c)) ∧
      ((s.chan c).direction = .reverse → s.pin c .dir = .driven (!s.config.dirFwd c)) ∧
      ((s.chan c).enabled = true → s.pin c .en = .driven (s.config.enActive c)) ∧
      ((s.chan c).enabled = false → s.pin c .en = .driven (!s.config.enActive c)))

/-- 20_memory.md R44: the identifier of every state element, Right's `0x20` above Left's; no other number is one. -/
def Obligations.StateElementsHaveTheirIdentifiers : Prop :=
  ∀ s : State,
    (∀ (c : Channel) (base : Nat), base = (match c with | .left => 0x00 | .right => 0x20) →
      s.element (base + 0x00) = some (if (s.chan c).enabled then 1 else 0) ∧
      s.element (base + 0x01) = some (if (s.chan c).direction = .reverse then 1 else 0) ∧
      s.element (base + 0x02) = some ((s.chan c).top.setWidth 32) ∧
      s.element (base + 0x03) = some ((s.chan c).cmp.setWidth 32) ∧
      s.element (base + 0x04) = some ((s.chan c).prescaler.setWidth 32) ∧
      s.element (base + 0x05) = some ((s.chan c).cs.setWidth 32) ∧
      s.element (base + 0x06) = some ((s.chan c).cnt.setWidth 32) ∧
      s.element (base + 0x07) = some (if (s.chan c).pulse then 1 else 0) ∧
      s.element (base + 0x08) = some (s.chan c).edgeCount ∧
      s.element (base + 0x09) = some (if (s.chan c).ip then 1 else 0) ∧
      s.element (base + 0x0A) = some (if (s.chan c).ie then 1 else 0) ∧
      s.element (base + 0x0B) = some (if (s.chan c).ovr then 1 else 0)) ∧
    s.element 0x40 = some (if s.inited then 1 else 0) ∧ s.element 0x41 = some (s.fault.setWidth 32) ∧
    s.element 0x42 = some (s.status.setWidth 32) ∧ s.element 0x43 = some s.value ∧ s.element 0x44 = some s.snap ∧
    s.element 0x45 = some (if s.savedIe then 1 else 0) ∧
    ∀ n, (0x0C ≤ n ∧ n < 0x20) ∨ (0x2C ≤ n ∧ n < 0x40) ∨ 0x46 ≤ n → s.element n = none

/-- 60_exceptions.md R137: the parameters do not change after reset is released: no step writes them. (That they are
a field of State is log entry 2.) -/
def Obligations.ParametersNeverChange : Prop :=
  ∀ s t : State, step s = .next t → t.config = s.config
end

