-- ==== Sys2Proof/Machine/Script.lean ====
section
/-! DEFINITION. What the lines of a test program do to the block (30_encoding.md R71): the schedule that commands
and directives describe, as steps of the machine. -/

namespace Sys2Proof.Machine

/-- The state a step leaves; a stop leaves the state as it was (no step stops). -/
def State.afterStep (s : State) : State :=
  match step s with
  | .next t => t
  | .fault _ => s
  | .refused _ => s

/-- One step at this turn, which is put first in the schedule. -/
def State.stepAs (s : State) (t : Turn) : State := { s with turns := t :: s.turns }.afterStep

/-- The handler steps that handler priority forces: one for each handler that is due, two at most, since a handler's
step makes no other handler due (00_scope.md R12(a), 42_edge_counter.md R91). -/
def State.settle (s : State) : State := once (once s)
where
  /-- The step of one handler that is due, if any is. -/
  once (s : State) : State :=
    match s.dueHandler .host with
    | some c => s.stepAs (.handler c)
    | none => s

/-- `n` steps of one agent, with the handler steps that handler priority forces before and after each. -/
def State.stepsAs (t : Turn) : Nat → State → State
  | 0, s => s.settle
  | n + 1, s => (s.settle.stepAs t).stepsAs t n

/-- The host's next `k` micro-steps of the command in progress. DESIGN CHOICE (log entry 22): no more than remain, and
none where no command is in progress; R71 does not bound `k`. -/
def State.continueFor (s : State) (k : Option Nat) : State :=
  let left := s.seq.microStepsLeft
  s.stepsAs .host (match k with | none => left | some k => min k left)

/-- What one line of a test program does (30_encoding.md R71). A command's word is presented once the handlers that
are due have run; its further micro-steps follow, all of them or those the suffix `/k` allows. DESIGN CHOICE (log entry
22): R71 gives `k` no lower bound, and `/0` still takes the accepting micro-step, as `/1` does; a `.tick` of a timer
whose clock is stopped passes; and on a command line that comes while an earlier command is still in progress R71 is
silent: the word goes to the front of the words still to present, the port does not take it, and the host's turns of
that line are the earlier command's micro-steps, so the word is not presented by its own line. -/
def performLine (l : Line) (s : State) : State :=
  match l with
  | .blank => s
  | .expect => s
  | .command w k =>
    let s := s.settle
    ({ s with port := w :: s.port }.stepAs .host).continueFor (k.map (· - 1))
  | .tick c n => s.stepsAs (.timer c) n
  | .cont k => s.continueFor k
  | .hardwareReset => s.stepAs .reset

/-- A whole program, line by line. -/
def performAll (ls : List Line) (s : State) : State := ls.foldl (fun s l => performLine l s) s

end Sys2Proof.Machine
end

