-- ==== Sys2Proof/Laws/Assembler.lean ====
section
/-! SUPPORT. What reading assembler text does with its pieces: cutting at a character, trimming, splitting operands,
and the numbers that printing writes (30_encoding.md R70). -/

namespace Sys2Proof.Line

theorem cut_of_notMem {sep : Char} {t : List Char} (h : sep ∉ t) : cut sep t = (t, none) := by
  induction t with
  | nil => rfl
  | cons ch t ih =>
    rw [List.mem_cons, not_or] at h
    simp [cut, ih h.2, Ne.symm h.1]

theorem cut_append {sep : Char} {a : List Char} (h : sep ∉ a) (b : List Char) :
    cut sep (a ++ sep :: b) = (a, some b) := by
  induction a with
  | nil => simp [cut]
  | cons ch a ih =>
    rw [List.mem_cons, not_or] at h
    simp [cut, ih h.2, Ne.symm h.1]

/-- Text that neither begins nor ends with a blank is left alone. -/
theorem trim_eq {a b : Char} (ha : isBlank a = false) (hb : isBlank b = false) (t : List Char) :
    trim (a :: t ++ [b]) = a :: t ++ [b] := by
  simp [trim, ha, hb]

/-- Text without blanks is left alone. -/
theorem trim_of_noBlank {t : List Char} (h : ∀ ch ∈ t, isBlank ch = false) : trim t = t := by
  have e : ∀ l : List Char, (∀ ch ∈ l, isBlank ch = false) → l.dropWhile isBlank = l := by
    intro l hl
    cases l with
    | nil => rfl
    | cons x l => rw [List.dropWhile_cons_of_neg (by simp [hl x (by simp)])]
  unfold trim
  rw [e t h, e t.reverse (fun ch hc => h ch (List.mem_reverse.1 hc)), List.reverse_reverse]

/-- One blank before such text is dropped. -/
theorem trim_blank_cons {t : List Char} (h : ∀ ch ∈ t, isBlank ch = false) : trim (' ' :: t) = t := by
  have : trim (' ' :: t) = trim t := by simp [trim, isBlank]
  rw [this, trim_of_noBlank h]

theorem operands_go_of_notMem {t : List Char} (h : ',' ∉ t) : operands.go t = [t] := by
  induction t with
  | nil => rfl
  | cons ch t ih =>
    rw [List.mem_cons, not_or] at h
    simp [operands.go, ih h.2, Ne.symm h.1]

theorem operands_go_append {a : List Char} (h : ',' ∉ a) (b : List Char) :
    operands.go (a ++ ',' :: b) = a :: operands.go b := by
  induction a with
  | nil => simp [operands.go]
  | cons ch a ih =>
    rw [List.mem_cons, not_or] at h
    simp [operands.go, ih h.2, Ne.symm h.1]

/-- Text that does not begin with a blank has operands. -/
theorem operands_cons {a : Char} (ha : isBlank a = false) (t : List Char) :
    operands (a :: t) = operands.go (a :: t) := by
  have h : trim (a :: t) ≠ [] := by
    intro h
    unfold trim at h
    rw [List.dropWhile_cons_of_neg (by simp [ha]), List.reverse_eq_nil_iff, List.dropWhile_eq_nil_iff] at h
    exact absurd (h a (by simp)) (by simp [ha])
  rw [operands, if_neg h]

/-- A line that is a command with all its micro-steps, from its mnemonic and the text of its operands. -/
theorem read_command {t name ops : List Char} (h1 : ';' ∉ t) (h2 : '/' ∉ t) (h3 : trim t = t)
    (h4 : ' ' ∉ name) (h5 : t = name ++ ' ' :: ops) (h6 : name.head? ≠ some '.') (h7 : name.head? ≠ some '<')
    (h8 : name ≠ []) :
    read t = (assembleWord name ((operands ops).map trim)).map (command · none) := by
  have hc : cut ' ' t = (name, some ops) := by rw [h5, cut_append h4]
  have hh : t.head? = name.head? := by
    rw [h5]
    cases name with
    | nil => exact absurd rfl h8
    | cons x l => rfl
  have n1 : t ≠ [] := by rw [h5]; simp
  have n2 : t ≠ "<hardware reset>".toList := by
    intro e
    rw [e] at hh
    exact h7 hh.symm
  unfold read
  simp only [cut_of_notMem h1, h3, hc]
  rw [if_neg n1, if_neg n2, if_neg (by rw [hh]; exact h6), cut_of_notMem h2]
  rfl

/-! Numbers. -/

theorem digit_of_isDigit {ch : Char} (h : ch.isDigit = true) : digit 10 ch = some (ch.toNat - 48) := by
  have h' : 48 ≤ ch.toNat ∧ ch.toNat ≤ 57 := by
    unfold Char.isDigit at h
    rw [Bool.and_eq_true, decide_eq_true_eq, decide_eq_true_eq] at h
    exact ⟨UInt32.le_iff_toNat_le.1 h.1, UInt32.le_iff_toNat_le.1 h.2⟩
  have : ch.toNat - 48 < 10 := by omega
  simp [digit, h', this]

theorem digits_of_isDigit {t : List Char} (h : ∀ ch ∈ t, ch.isDigit = true) (acc : Nat) :
    digits 10 acc t = some (Nat.ofDigitChars 10 t acc) := by
  induction t generalizing acc with
  | nil => rfl
  | cons ch t ih =>
    rw [digits, digit_of_isDigit (h ch (by simp)), Option.bind_some, ih (fun x hx => h x (by simp [hx])),
      Nat.ofDigitChars_cons, Nat.mul_comm]
    rfl

theorem isDigit_of_mem {n : Nat} {ch : Char} (h : ch ∈ Nat.toDigits 10 n) : ch.isDigit = true :=
  Nat.isDigit_of_mem_toDigits (by omega) (by omega) h

theorem decimal_toDigits (n : Nat) : decimal (Nat.toDigits 10 n) = some n := by
  rw [decimal, if_neg Nat.toDigits_ne_nil, digits_of_isDigit (fun _ => isDigit_of_mem),
    Nat.ofDigitChars_toDigits (by omega) (by omega)]

/-- A decimal number is read as it was written. -/
theorem number_toDigits (n : Nat) : number (Nat.toDigits 10 n) = some n := by
  unfold number
  split
  · next h e =>
    have : 'x' ∈ Nat.toDigits 10 n := by rw [e]; simp
    exact absurd (isDigit_of_mem this) (by decide)
  · exact decimal_toDigits n

theorem half_toDigits {n : Nat} (h : n ≤ 65535) : half (Nat.toDigits 10 n) = some (BitVec.ofNat 16 n) := by
  simp [half, numberBelow, number_toDigits, show n < 65536 by omega]

theorem signedHalf_toDigits {n : Nat} (h : n ≤ 32767) : signedHalf (Nat.toDigits 10 n) = some (BitVec.ofNat 16 n) := by
  unfold signedHalf
  split
  · next d e =>
    have : '-' ∈ Nat.toDigits 10 n := by rw [e]; simp
    exact absurd (isDigit_of_mem this) (by decide)
  · simp [decimal_toDigits, h]

theorem signedHalf_minus {n : Nat} (h : n ≤ 32768) :
    signedHalf ('-' :: Nat.toDigits 10 n) = some (BitVec.ofInt 16 (-n)) := by
  simp [signedHalf, decimal_toDigits, h]

end Sys2Proof.Line
end

