-- ==== Sys2Proof/Laws/State.lean ====
section
/-! SUPPORT. The state's small lemmas: one per field per update, so that no later proof unfolds a record update
or an operation that only writes fields. -/

namespace Sys2Proof.Machine

@[simp] theorem chan_left (s : State) : s.chan .left = s.left := rfl
@[simp] theorem chan_right (s : State) : s.chan .right = s.right := rfl
@[simp] theorem setChan_left (s : State) (k : Chan 8) : s.setChan .left k = { s with left := k } := rfl
@[simp] theorem setChan_right (s : State) (k : Chan 16) : s.setChan .right k = { s with right := k } := rfl

/-- Reading back the channel written. -/
@[simp] theorem chan_setChan_self (s : State) (c : Channel) (k : Chan (width c)) : (s.setChan c k).chan c = k := by
  cases c <;> rfl

/-- The other channel keeps its value. -/
theorem chan_setChan_ne (s : State) {c d : Channel} (h : d ≠ c) (k : Chan (width c)) :
    (s.setChan c k).chan d = s.chan d := by
  cases c <;> cases d <;> first | rfl | exact absurd rfl h

/-- Writing the channel's own value changes nothing. -/
@[simp] theorem setChan_chan (s : State) (c : Channel) : s.setChan c (s.chan c) = s := by
  cases c <;> rfl

@[simp] theorem setChan_inited (s : State) (c : Channel) (k : Chan (width c)) : (s.setChan c k).inited = s.inited := by cases c <;> rfl
@[simp] theorem setChan_fault (s : State) (c : Channel) (k : Chan (width c)) : (s.setChan c k).fault = s.fault := by cases c <;> rfl
@[simp] theorem setChan_status (s : State) (c : Channel) (k : Chan (width c)) : (s.setChan c k).status = s.status := by cases c <;> rfl
@[simp] theorem setChan_value (s : State) (c : Channel) (k : Chan (width c)) : (s.setChan c k).value = s.value := by cases c <;> rfl
@[simp] theorem setChan_snap (s : State) (c : Channel) (k : Chan (width c)) : (s.setChan c k).snap = s.snap := by cases c <;> rfl
@[simp] theorem setChan_savedIe (s : State) (c : Channel) (k : Chan (width c)) : (s.setChan c k).savedIe = s.savedIe := by cases c <;> rfl
@[simp] theorem setChan_seq (s : State) (c : Channel) (k : Chan (width c)) : (s.setChan c k).seq = s.seq := by cases c <;> rfl
@[simp] theorem setChan_trace (s : State) (c : Channel) (k : Chan (width c)) : (s.setChan c k).trace = s.trace := by cases c <;> rfl
@[simp] theorem setChan_config (s : State) (c : Channel) (k : Chan (width c)) : (s.setChan c k).config = s.config := by cases c <;> rfl
@[simp] theorem setChan_port (s : State) (c : Channel) (k : Chan (width c)) : (s.setChan c k).port = s.port := by cases c <;> rfl
@[simp] theorem setChan_turns (s : State) (c : Channel) (k : Chan (width c)) : (s.setChan c k).turns = s.turns := by cases c <;> rfl
@[simp] theorem setChan_draws (s : State) (c : Channel) (k : Chan (width c)) : (s.setChan c k).draws = s.draws := by cases c <;> rfl

@[simp] theorem emit_chan (s : State) (e : Event) (c : Channel) : (s.emit e).chan c = s.chan c := by cases c <;> rfl
@[simp] theorem emit_trace (s : State) (e : Event) : (s.emit e).trace = s.trace ++ [e] := rfl
@[simp] theorem emit_left (s : State) (e : Event) : (s.emit e).left = s.left := rfl
@[simp] theorem emit_right (s : State) (e : Event) : (s.emit e).right = s.right := rfl
@[simp] theorem emit_inited (s : State) (e : Event) : (s.emit e).inited = s.inited := rfl
@[simp] theorem emit_fault (s : State) (e : Event) : (s.emit e).fault = s.fault := rfl
@[simp] theorem emit_status (s : State) (e : Event) : (s.emit e).status = s.status := rfl
@[simp] theorem emit_value (s : State) (e : Event) : (s.emit e).value = s.value := rfl
@[simp] theorem emit_snap (s : State) (e : Event) : (s.emit e).snap = s.snap := rfl
@[simp] theorem emit_savedIe (s : State) (e : Event) : (s.emit e).savedIe = s.savedIe := rfl
@[simp] theorem emit_seq (s : State) (e : Event) : (s.emit e).seq = s.seq := rfl
@[simp] theorem emit_config (s : State) (e : Event) : (s.emit e).config = s.config := rfl
@[simp] theorem emit_port (s : State) (e : Event) : (s.emit e).port = s.port := rfl
@[simp] theorem emit_turns (s : State) (e : Event) : (s.emit e).turns = s.turns := rfl
@[simp] theorem emit_draws (s : State) (e : Event) : (s.emit e).draws = s.draws := rfl

@[simp] theorem respond_chan (s : State) (st : Byte) (v : Word) (c : Channel) : (s.respond st v).chan c = s.chan c := by cases c <;> rfl
@[simp] theorem respond_status (s : State) (st : Byte) (v : Word) : (s.respond st v).status = st := rfl
@[simp] theorem respond_value (s : State) (st : Byte) (v : Word) : (s.respond st v).value = v := rfl
@[simp] theorem respond_seq (s : State) (st : Byte) (v : Word) : (s.respond st v).seq = .idle := rfl
@[simp] theorem respond_left (s : State) (st : Byte) (v : Word) : (s.respond st v).left = s.left := rfl
@[simp] theorem respond_right (s : State) (st : Byte) (v : Word) : (s.respond st v).right = s.right := rfl
@[simp] theorem respond_inited (s : State) (st : Byte) (v : Word) : (s.respond st v).inited = s.inited := rfl
@[simp] theorem respond_fault (s : State) (st : Byte) (v : Word) : (s.respond st v).fault = s.fault := rfl
@[simp] theorem respond_snap (s : State) (st : Byte) (v : Word) : (s.respond st v).snap = s.snap := rfl
@[simp] theorem respond_savedIe (s : State) (st : Byte) (v : Word) : (s.respond st v).savedIe = s.savedIe := rfl
@[simp] theorem respond_trace (s : State) (st : Byte) (v : Word) : (s.respond st v).trace = s.trace := rfl
@[simp] theorem respond_config (s : State) (st : Byte) (v : Word) : (s.respond st v).config = s.config := rfl
@[simp] theorem respond_port (s : State) (st : Byte) (v : Word) : (s.respond st v).port = s.port := rfl
@[simp] theorem respond_turns (s : State) (st : Byte) (v : Word) : (s.respond st v).turns = s.turns := rfl
@[simp] theorem respond_draws (s : State) (st : Byte) (v : Word) : (s.respond st v).draws = s.draws := rfl

@[simp] theorem endTurn_chan (s : State) (c : Channel) : s.endTurn.chan c = s.chan c := by
  unfold State.endTurn; split <;> cases c <;> rfl
@[simp] theorem endTurn_left (s : State) : s.endTurn.left = s.left := by unfold State.endTurn; split <;> rfl
@[simp] theorem endTurn_right (s : State) : s.endTurn.right = s.right := by unfold State.endTurn; split <;> rfl
@[simp] theorem endTurn_inited (s : State) : s.endTurn.inited = s.inited := by unfold State.endTurn; split <;> rfl
@[simp] theorem endTurn_fault (s : State) : s.endTurn.fault = s.fault := by unfold State.endTurn; split <;> rfl
@[simp] theorem endTurn_status (s : State) : s.endTurn.status = s.status := by unfold State.endTurn; split <;> rfl
@[simp] theorem endTurn_value (s : State) : s.endTurn.value = s.value := by unfold State.endTurn; split <;> rfl
@[simp] theorem endTurn_snap (s : State) : s.endTurn.snap = s.snap := by unfold State.endTurn; split <;> rfl
@[simp] theorem endTurn_savedIe (s : State) : s.endTurn.savedIe = s.savedIe := by unfold State.endTurn; split <;> rfl
@[simp] theorem endTurn_seq (s : State) : s.endTurn.seq = s.seq := by unfold State.endTurn; split <;> rfl
@[simp] theorem endTurn_trace (s : State) : s.endTurn.trace = s.trace := by unfold State.endTurn; split <;> rfl
@[simp] theorem endTurn_config (s : State) : s.endTurn.config = s.config := by unfold State.endTurn; split <;> rfl
@[simp] theorem endTurn_port (s : State) : s.endTurn.port = s.port := by unfold State.endTurn; split <;> rfl

@[simp] theorem afterHandler_chan (s : State) (t : Turn) (c d : Channel) : (s.afterHandler t c).chan d = s.chan d := by
  unfold State.afterHandler; split_ifs <;> cases d <;> simp
@[simp] theorem afterHandler_left (s : State) (t : Turn) (c : Channel) : (s.afterHandler t c).left = s.left := by
  unfold State.afterHandler; split_ifs <;> simp
@[simp] theorem afterHandler_right (s : State) (t : Turn) (c : Channel) : (s.afterHandler t c).right = s.right := by
  unfold State.afterHandler; split_ifs <;> simp
@[simp] theorem afterHandler_inited (s : State) (t : Turn) (c : Channel) : (s.afterHandler t c).inited = s.inited := by
  unfold State.afterHandler; split_ifs <;> simp
@[simp] theorem afterHandler_fault (s : State) (t : Turn) (c : Channel) : (s.afterHandler t c).fault = s.fault := by
  unfold State.afterHandler; split_ifs <;> simp
@[simp] theorem afterHandler_status (s : State) (t : Turn) (c : Channel) : (s.afterHandler t c).status = s.status := by
  unfold State.afterHandler; split_ifs <;> simp
@[simp] theorem afterHandler_value (s : State) (t : Turn) (c : Channel) : (s.afterHandler t c).value = s.value := by
  unfold State.afterHandler; split_ifs <;> simp
@[simp] theorem afterHandler_snap (s : State) (t : Turn) (c : Channel) : (s.afterHandler t c).snap = s.snap := by
  unfold State.afterHandler; split_ifs <;> simp
@[simp] theorem afterHandler_savedIe (s : State) (t : Turn) (c : Channel) : (s.afterHandler t c).savedIe = s.savedIe := by
  unfold State.afterHandler; split_ifs <;> simp
@[simp] theorem afterHandler_seq (s : State) (t : Turn) (c : Channel) : (s.afterHandler t c).seq = s.seq := by
  unfold State.afterHandler; split_ifs <;> simp
@[simp] theorem afterHandler_trace (s : State) (t : Turn) (c : Channel) : (s.afterHandler t c).trace = s.trace := by
  unfold State.afterHandler; split_ifs <;> simp
@[simp] theorem afterHandler_config (s : State) (t : Turn) (c : Channel) : (s.afterHandler t c).config = s.config := by
  unfold State.afterHandler; split_ifs <;> simp
@[simp] theorem afterHandler_port (s : State) (t : Turn) (c : Channel) : (s.afterHandler t c).port = s.port := by
  unfold State.afterHandler; split_ifs <;> simp

end Sys2Proof.Machine
end

