-- ==== Sys2Proof/Laws/Bytes.lean ====
section
/-! SUPPORT. The bytes of a 32-bit value and the small arithmetic of the registers (20_memory.md R45,
40_mapper.md R161). -/

namespace Sys2Proof.Machine

theorem getLsbD_byteMask (m : Nat) : (0xFF : Word).getLsbD m = decide (m < 8) := by
  by_cases h : m < 32
  · have : ∀ m : Fin 32, (0xFF : Word).getLsbD m = decide (m.val < 8) := by decide
    exact this ⟨m, h⟩
  · rw [BitVec.getLsbD_of_ge _ _ (by omega)]
    simp
    omega

theorem getLsbD_setByte (v : Word) (i : Nat) (b : Byte) (k : Nat) (hk : k < 32) :
    (setByte v i b).getLsbD k =
      if 8 * i ≤ k ∧ k < 8 * i + 8 then b.getLsbD (k - 8 * i) else v.getLsbD k := by
  unfold setByte
  simp only [BitVec.getLsbD_or, BitVec.getLsbD_and, BitVec.getLsbD_not, BitVec.getLsbD_shiftLeft,
    BitVec.getLsbD_setWidth, hk, getLsbD_byteMask]
  split_ifs with h
  · simp only [show ¬ k < 8 * i by omega, show k - 8 * i < 8 by omega, show k - 8 * i < 32 by omega,
      decide_true, decide_false, Bool.not_false, Bool.true_and, Bool.not_true, Bool.and_false, Bool.false_or]
  · by_cases h1 : k < 8 * i
    · simp only [h1, decide_true, Bool.not_true, Bool.and_false, Bool.false_and, Bool.not_false, Bool.and_true,
        Bool.or_false]
    · simp only [h1, show ¬ k - 8 * i < 8 by omega, decide_false, Bool.and_false, Bool.not_false, Bool.and_true,
        BitVec.getLsbD_of_ge b (k - 8 * i) (by omega), Bool.or_false]
      simp

theorem getLsbD_byteOf (v : Word) (i j : Nat) :
    (byteOf v i).getLsbD j = (decide (j < 8) && v.getLsbD (8 * i + j)) := by
  simp [byteOf, BitVec.getLsbD_extractLsb']

/-- The byte written is read back. -/
theorem byteOf_setByte_self (v : Word) (i : Nat) (b : Byte) (h : i < 4) : byteOf (setByte v i b) i = b := by
  apply BitVec.eq_of_getLsbD_eq
  intro j hj
  rw [getLsbD_byteOf, getLsbD_setByte _ _ _ _ (by omega), if_pos (by omega)]
  simp [hj]

/-- Every other byte keeps its value. -/
theorem byteOf_setByte_ne (v : Word) (i j : Nat) (b : Byte) (h : j < 4) (hn : j ≠ i) :
    byteOf (setByte v i b) j = byteOf v j := by
  apply BitVec.eq_of_getLsbD_eq
  intro k hk
  rw [getLsbD_byteOf, getLsbD_byteOf, getLsbD_setByte _ _ _ _ (by omega), if_neg (by omega)]

/-- Four equal bytes, equal values. -/
theorem eq_of_bytes {v w : Word} (h : ∀ j, j < 4 → byteOf v j = byteOf w j) : v = w := by
  apply BitVec.eq_of_getLsbD_eq
  intro k hk
  have := congrArg (fun x => x.getLsbD (k % 8)) (h (k / 8) (by omega))
  simp only [getLsbD_byteOf] at this
  rw [show 8 * (k / 8) + k % 8 = k by omega] at this
  simpa [show k % 8 < 8 by omega] using this

theorem byteOf_zero (j : Nat) : byteOf 0 j = 0 := by
  apply BitVec.eq_of_getLsbD_eq
  intro k hk
  simp [byteOf]

/-- The next byte of a section's four. -/
theorem val_succ_of_lt {i : Fin 5} (h : i.val < 4) : (i + 1).val = i.val + 1 := by
  revert h
  revert i
  decide

theorem halve_eq (v : Word) : halve v = BitVec.ofNat 32 (v.toNat / 2) := by
  apply BitVec.eq_of_toNat_eq
  have := v.isLt
  simp [halve, Nat.shiftRight_eq_div_pow]
  omega

theorem ofNat_ushiftRight_one {w : Nat} (t : Nat) (h : t < 2 ^ w) :
    BitVec.ofNat w t >>> 1 = BitVec.ofNat w (t / 2) := by
  apply BitVec.eq_of_toNat_eq
  simp [Nat.shiftRight_eq_div_pow]
  rw [Nat.mod_eq_of_lt h, Nat.mod_eq_of_lt (by omega)]

theorem add_one_eq_ofNat {w : Nat} (x : BitVec w) : x + 1 = BitVec.ofNat w (x.toNat + 1) := by
  apply BitVec.eq_of_toNat_eq
  simp

theorem packSetting_toNat (ps : Code) (top : Nat) (h : top < 65536) :
    (packSetting ps top).toNat = ps.toNat * 65536 + top := by
  unfold packSetting
  rw [BitVec.toNat_append, BitVec.toNat_append, BitVec.toNat_ofNat, Nat.mod_eq_of_lt h,
    ← Nat.shiftLeft_add_eq_or_of_lt (by simpa using h), Nat.shiftLeft_eq]
  simp

end Sys2Proof.Machine
end

