-- ==== Sys2Proof/Laws/PerInstr.lean ====
section
/-! SUPPORT. Facts about every command as syntax, one lemma per constructor. -/

namespace Sys2Proof.Laws.EncodedOpcode

/-- The word of a command carries its opcode's number in `OP` (30_encoding.md R57, R61). -/
def Statement (i : Instr) : Prop := opField (encode i) = i.opcode.number

theorem opField_pack (op ch : Byte) (a b : Half) : opField (pack op ch a b) = op := by
  unfold opField pack
  ext i hi
  simp only [BitVec.getElem_extractLsb', BitVec.getLsbD_append]
  simp [show ¬ 40 + i < 16 by omega, show ¬ 40 + i - 16 < 16 by omega,
    show ¬ 40 + i - 16 - 16 < 8 by omega, show 40 + i - 16 - 16 - 8 = i by omega, hi]

theorem init : Statement .init := opField_pack _ _ _ _
theorem enable (c : Channel) (flag : Bool) : Statement (.enable c flag) := opField_pack _ _ _ _
theorem setDir (c : Channel) (forward : Bool) : Statement (.setDir c forward) := opField_pack _ _ _ _
theorem setSpeed (c : Channel) (rpm : Nat) : Statement (.setSpeed c rpm) := opField_pack _ _ _ _
theorem setSpeedBoth (rpmL rpmR : Nat) : Statement (.setSpeedBoth rpmL rpmR) := opField_pack _ _ _ _
theorem move (c : Channel) (steps : Int) : Statement (.move c steps) := opField_pack _ _ _ _
theorem stopAll : Statement .stopAll := opField_pack _ _ _ _
theorem resetCounts : Statement .resetCounts := opField_pack _ _ _ _
theorem getStepCount (c : Channel) : Statement (.getStepCount c) := opField_pack _ _ _ _
theorem program (c : Channel) (top : Nat) (ps : Code) : Statement (.program c top ps) := opField_pack _ _ _ _
theorem start (c : Channel) : Statement (.start c) := opField_pack _ _ _ _
theorem stop (c : Channel) : Statement (.stop c) := opField_pack _ _ _ _
theorem mapSpeed (c : Channel) (rpm : Nat) : Statement (.mapSpeed c rpm) := opField_pack _ _ _ _
theorem evtEnable (c : Channel) (flag : Bool) : Statement (.evtEnable c flag) := opField_pack _ _ _ _

end Sys2Proof.Laws.EncodedOpcode
end

