-- ==== Sys2Proof/Laws/Decode.lean ====
section
/-! SUPPORT. The fields of a packed word, and a word from its fields (30_encoding.md R57); opcodes and their bytes
(R61). What the decoder does with a word follows from these. -/

namespace Sys2Proof

@[simp] theorem opField_pack (op ch : Byte) (a b : Half) : opField (pack op ch a b) = op :=
  Laws.EncodedOpcode.opField_pack op ch a b

@[simp] theorem chField_pack (op ch : Byte) (a b : Half) : chField (pack op ch a b) = ch := by
  unfold chField pack
  ext i hi
  simp only [BitVec.getElem_extractLsb', BitVec.getLsbD_append]
  simp [show ¬ 32 + i < 16 by omega, show ¬ 32 + i - 16 < 16 by omega,
    show 32 + i - 16 - 16 = i by omega, hi]

@[simp] theorem aField_pack (op ch : Byte) (a b : Half) : aField (pack op ch a b) = a := by
  unfold aField pack
  ext i hi
  simp only [BitVec.getElem_extractLsb', BitVec.getLsbD_append]
  simp [show ¬ 16 + i < 16 by omega, show 16 + i - 16 = i by omega, hi]

@[simp] theorem bField_pack (op ch : Byte) (a b : Half) : bField (pack op ch a b) = b := by
  unfold bField pack
  ext i hi
  simp only [BitVec.getElem_extractLsb', BitVec.getLsbD_append]
  simp [hi]

/-- Every word is packed from its four fields. -/
theorem pack_fields (w : Command) : pack (opField w) (chField w) (aField w) (bField w) = w := by
  unfold pack opField chField aField bField
  ext i hi
  simp only [BitVec.getElem_append, BitVec.getElem_extractLsb']
  split_ifs with h1 h2 h3
  · simp [BitVec.getLsbD_eq_getElem hi]
  · rw [show 16 + (i - 16) = i by omega]; simp [BitVec.getLsbD_eq_getElem hi]
  · rw [show 32 + (i - 16 - 16) = i by omega]; simp [BitVec.getLsbD_eq_getElem hi]
  · rw [show 40 + (i - 16 - 16 - 8) = i by omega]; simp [BitVec.getLsbD_eq_getElem hi]

/-- Two packed words are equal iff their fields are. -/
theorem pack_inj {op ch op' ch' : Byte} {a b a' b' : Half} :
    pack op ch a b = pack op' ch' a' b' ↔ op = op' ∧ ch = ch' ∧ a = a' ∧ b = b' := by
  constructor
  · intro h
    exact ⟨by simpa using congrArg opField h, by simpa using congrArg chField h,
      by simpa using congrArg aField h, by simpa using congrArg bField h⟩
  · rintro ⟨rfl, rfl, rfl, rfl⟩
    rfl

/-! A mask acts field by field. -/

theorem opField_and (v w : Command) : opField (v &&& w) = opField v &&& opField w := BitVec.extractLsb'_and
theorem chField_and (v w : Command) : chField (v &&& w) = chField v &&& chField w := BitVec.extractLsb'_and
theorem aField_and (v w : Command) : aField (v &&& w) = aField v &&& aField w := BitVec.extractLsb'_and
theorem bField_and (v w : Command) : bField (v &&& w) = bField v &&& bField w := BitVec.extractLsb'_and

/-- Two words are equal iff their fields are. -/
theorem eq_iff_fields {v w : Command} :
    v = w ↔ opField v = opField w ∧ chField v = chField w ∧ aField v = aField w ∧ bField v = bField w := by
  rw [← pack_inj, pack_fields, pack_fields]

theorem ofByte_number (o : Opcode) : Opcode.ofByte o.number = some o := by
  cases o <;> rfl

theorem number_of_ofByte {b : Byte} {o : Opcode} (h : Opcode.ofByte b = some o) : b = o.number := by
  cases o <;> revert b <;> decide

/-! What the decoder answers. -/

/-- Decoding a word with a defined opcode, its checks in the order of 30_encoding.md R64 (3), (4). -/
theorem decode_of_number {w : Command} {o : Opcode} (h : opField w = o.number) :
    decode w = if o.reservedZero w = false then .error .reservedBits
      else if o.usesChannel = true ∧ 1 < (chField w).toNat then .error .invalidChannel
      else .ok (o.assemble (channelOf (chField w)) (aField w) (bField w)) := by
  unfold decode
  rw [h, ofByte_number]

/-- Everything an accepted word is. -/
theorem decode_ok_fields {w : Command} {i : Instr} (h : decode w = .ok i) :
    ∃ o : Opcode, opField w = o.number ∧ o.reservedZero w = true ∧
      (o.usesChannel = true → (chField w).toNat ≤ 1) ∧
      i = o.assemble (channelOf (chField w)) (aField w) (bField w) := by
  unfold decode at h
  split at h
  · cases h
  · next o ho =>
    split_ifs at h with h1 h2
    cases h
    refine ⟨o, number_of_ofByte ho, by simpa using h1, fun hu => ?_, rfl⟩
    by_contra hc
    exact h2 ⟨hu, by omega⟩

theorem opcode_assemble (o : Opcode) (c : Channel) (a b : Half) : (o.assemble c a b).opcode = o := by
  cases o <;> rfl

/-- A field whose reserved bits are zero is its free bits. -/
theorem eq_and_of_and_compl {a m : Half} (h : a &&& ~~~m = 0) : a = a &&& m := by
  ext i hi
  have := congrArg (fun v : Half => v.getLsbD i) h
  simp [BitVec.getLsbD_eq_getElem hi] at this
  simp
  cases ha : a[i] <;> simp_all

theorem channelByte_channelOf {ch : Byte} (h : ch.toNat ≤ 1) : channelByte (channelOf ch) = ch := by
  revert h
  revert ch
  decide

theorem flagField_flagOf {a : Half} (h : a &&& ~~~(0x0001 : Half) = 0) : flagField (flagOf a) = a := by
  have h1 := eq_and_of_and_compl h
  have h2 : (a &&& 1).toNat = a.toNat % 2 := by simp [BitVec.toNat_and, Nat.and_one_is_mod]
  have h3 : a.toNat = a.toNat % 2 := by rw [← h2]; exact congrArg _ h1
  rcases (show a.toNat = 0 ∨ a.toNat = 1 by omega) with h | h
  · have : a = 0 := BitVec.eq_of_toNat_eq (by simpa using h)
    subst this
    rfl
  · have : a = 1 := BitVec.eq_of_toNat_eq (by simpa using h)
    subst this
    rfl

theorem setWidth_codeOf {b : Half} (h : b &&& ~~~(0x0007 : Half) = 0) : (codeOf b).setWidth 16 = b := by
  have h1 := eq_and_of_and_compl h
  have h2 : (b &&& 7).toNat = b.toNat % 8 := by
    rw [BitVec.toNat_and]
    exact Nat.and_two_pow_sub_one_eq_mod b.toNat 3
  have h3 : b.toNat = b.toNat % 8 := by rw [← h2]; exact congrArg _ h1
  apply BitVec.eq_of_toNat_eq
  simp [codeOf]
  omega

/-! Mask and match, field by field (30_encoding.md R62, R65). -/

theorem maskWord_fields (o : Opcode) :
    opField o.maskWord = 0xFF ∧ chField o.maskWord = (if o.usesChannel then 0xFE else 0xFF) ∧
      aField o.maskWord = ~~~o.freeA ∧ bField o.maskWord = ~~~o.freeB := by
  cases o <;> decide

theorem matchWord_fields (o : Opcode) :
    opField o.matchWord = o.number ∧ chField o.matchWord = 0 ∧ aField o.matchWord = 0 ∧
      bField o.matchWord = 0 := by
  cases o <;> decide

theorem reservedMask_fields (o : Opcode) :
    opField o.reservedMask = 0 ∧ chField o.reservedMask = (if o.usesChannel then 0 else 0xFF) ∧
      aField o.reservedMask = ~~~o.freeA ∧ bField o.reservedMask = ~~~o.freeB := by
  cases o <;> decide

theorem byte_and_ones (x : Byte) : x &&& 0xFF = x := by
  revert x
  decide

theorem byte_and_upper (x : Byte) : x &&& 0xFE = 0 ↔ x.toNat ≤ 1 := by
  revert x
  decide

/-- A word matches an opcode's mask iff it passes the decoder's checks for that opcode. -/
theorem match_iff_checks (o : Opcode) (w : Command) :
    w &&& o.maskWord = o.matchWord ↔
      opField w = o.number ∧ o.reservedZero w = true ∧ (o.usesChannel = true → (chField w).toNat ≤ 1) := by
  obtain ⟨a1, a2, a3, a4⟩ := maskWord_fields o
  obtain ⟨b1, b2, b3, b4⟩ := matchWord_fields o
  rw [eq_iff_fields, opField_and, chField_and, aField_and, bField_and, a1, a2, a3, a4, b1, b2, b3, b4,
    byte_and_ones]
  unfold Opcode.reservedZero
  cases o.usesChannel
  · rw [if_neg (by simp), byte_and_ones]
    simp [and_assoc]
  · rw [if_pos rfl, byte_and_upper]
    simp
    tauto

/-- The reserved bits of a word are zero iff the decoder's check of them passes. -/
theorem reservedMask_iff (o : Opcode) (w : Command) : w &&& o.reservedMask = 0 ↔ o.reservedZero w = true := by
  obtain ⟨a1, a2, a3, a4⟩ := reservedMask_fields o
  rw [eq_iff_fields, opField_and, chField_and, aField_and, bField_and, a1, a2, a3, a4,
    show opField 0 = 0 from rfl, show chField 0 = 0 from rfl, show aField 0 = 0 from rfl,
    show bField 0 = 0 from rfl]
  unfold Opcode.reservedZero
  cases o.usesChannel
  · rw [if_neg (by simp), byte_and_ones]
    simp [and_assoc]
  · simp

end Sys2Proof
end

