-- ==== Sys2Proof/Laws/Ops.lean ====
section
/-! SUPPORT. One lemma per shared operation: everything the admission of a command, the event operations and the
schedule can do. The provers cite these instead of unfolding the operations. -/

namespace Sys2Proof.Machine

/-! Admission (30_encoding.md R64 (1), (5)). -/

theorem ifReady_ready {s : State} (h : s.Ready) (body : State → State) : s.ifReady body = body s := by
  obtain ⟨h1, h2, h3⟩ := h
  simp [State.ifReady, h1, h2, h3]

theorem ifReady_busy {s : State} (h : s.seq ≠ .idle) (body : State → State) : s.ifReady body = s := by
  simp [State.ifReady, h]

theorem ifReady_faulted {s : State} (h1 : s.seq = .idle) (h2 : s.fault ≠ 0) (body : State → State) :
    s.ifReady body = s.refuse := by
  simp only [State.ifReady, h1, ne_eq, not_true_eq_false, if_false, if_pos h2]

theorem ifReady_uninitialised {s : State} (h1 : s.seq = .idle) (h2 : s.fault = 0) (h3 : s.inited = false)
    (body : State → State) : s.ifReady body = s.raise .notInitialised := by
  simp [State.ifReady, h1, h2, h3]

/-- All that admission can do. -/
theorem ifReady_cases (s : State) (body : State → State) :
    (s.seq ≠ .idle ∧ s.ifReady body = s) ∨
    (s.seq = .idle ∧ s.fault ≠ 0 ∧ s.ifReady body = s.refuse) ∨
    (s.seq = .idle ∧ s.fault = 0 ∧ s.inited = false ∧ s.ifReady body = s.raise .notInitialised) ∨
    (s.Ready ∧ s.ifReady body = body s) := by
  by_cases h1 : s.seq = .idle
  · by_cases h2 : s.fault = 0
    · by_cases h3 : s.inited = false
      · exact .inr (.inr (.inl ⟨h1, h2, h3, ifReady_uninitialised h1 h2 h3 body⟩))
      · have h4 : s.Ready := ⟨h1, h2, by simpa using h3⟩
        exact .inr (.inr (.inr ⟨h4, ifReady_ready h4 body⟩))
    · exact .inr (.inl ⟨h1, h2, ifReady_faulted h1 h2 body⟩)
  · exact .inl ⟨h1, ifReady_busy h1 body⟩

theorem initIfReady_ready {s : State} (h1 : s.seq = .idle) (h2 : s.fault = 0) (body : State → State) :
    s.initIfReady body = body s := by
  simp [State.initIfReady, h1, h2]

/-- All that admission of `INIT` can do. -/
theorem initIfReady_cases (s : State) (body : State → State) :
    (s.seq ≠ .idle ∧ s.initIfReady body = s) ∨
    (s.seq = .idle ∧ s.fault ≠ 0 ∧ s.initIfReady body = s.refuse) ∨
    (s.seq = .idle ∧ s.fault = 0 ∧ s.initIfReady body = body s) := by
  unfold State.initIfReady
  split_ifs with h1 h2 <;> simp_all

/-! The mapper's clamp and the event flags. -/

theorem clampTop_fst_le (c : Channel) (t : Nat) : (clampTop c t).1 ≤ topMax c := by
  unfold clampTop
  split_ifs with h
  · exact le_rfl
  · exact Nat.le_of_not_lt h

theorem topMax_lt (c : Channel) : topMax c < 2 ^ width c := by
  cases c <;> decide

/-- Raising the event touches `ip` and `ovr` only, and `ip` is set after it. -/
theorem raiseEvent_eq {w : Nat} (k : Chan w) :
    k.raiseEvent = { k with ip := true, ovr := k.ovr || k.ip } := by
  obtain ⟨_, _, _, _, _, _, _, _, _, ip, _, ovr⟩ := k
  cases ip <;> cases ovr <;> rfl

/-- A tick, both matches at once. -/
theorem tick_eq {w : Nat} (k : Chan w) :
    k.tick = if k.cnt = k.cmp
      then { k with pulse := !k.pulse, ip := true, ovr := k.ovr || k.ip, cnt := k.nextCnt }
      else { k with cnt := k.nextCnt } := by
  unfold Chan.tick
  split_ifs <;> simp [raiseEvent_eq, Chan.nextCnt]

/-! The schedule (00_scope.md R12). -/

/-- No handler is due iff neither channel's event is pending and enabled. -/
theorem dueHandler_none {s : State} {t : Turn} : s.dueHandler t = none ↔ s.NoHandlerDue := by
  unfold State.dueHandler State.NoHandlerDue
  cases s.left.eventDue <;> cases s.right.eventDue <;> cases t <;> simp

/-- A handler that is due has its event pending and enabled. -/
theorem dueHandler_some {s : State} {t : Turn} {c : Channel} (h : s.dueHandler t = some c) :
    (s.chan c).ip = true ∧ (s.chan c).ie = true := by
  unfold State.dueHandler at h
  cases hl : s.left.eventDue <;> cases hr : s.right.eventDue <;> rw [hl, hr] at h <;>
    simp only [Chan.eventDue, Bool.and_eq_true] at hl hr
  · cases h
  · cases h; exact hr
  · cases h; exact hl
  · cases c
    · exact hl
    · exact hr

/-- Everything one step of the block can be: hardware reset, an enabled handler, the host, a timer, or a handler's
turn that passes. -/
theorem step_cases {s t : State} (h : step s = .next t) :
    (s.nextTurn = .reset ∧ t = s.endTurn.hardwareReset) ∨
    (s.nextTurn ≠ .reset ∧ ∃ c, s.dueHandler s.nextTurn = some c ∧
      t = (s.afterHandler s.nextTurn c).takeEdgeEvent c) ∨
    (s.nextTurn = .host ∧ s.NoHandlerDue ∧ hostTurn s.endTurn = .next t) ∨
    (∃ c, s.nextTurn = .timer c ∧ s.NoHandlerDue ∧ t = s.endTurn.timerTurn c) ∨
    (∃ c, s.nextTurn = .handler c ∧ s.NoHandlerDue ∧ t = s.endTurn) := by
  unfold step runTurn at h
  split at h
  · next ht => cases h; exact .inl ⟨ht, rfl⟩
  · next c hd hr => cases h; exact .inr (.inl ⟨hr, c, hd, rfl⟩)
  · next ht hd => exact .inr (.inr (.inl ⟨ht, dueHandler_none.1 hd, h⟩))
  · next c ht hd => cases h; exact .inr (.inr (.inr (.inl ⟨c, ht, dueHandler_none.1 hd, rfl⟩)))
  · next c ht hd => cases h; exact .inr (.inr (.inr (.inr ⟨c, ht, dueHandler_none.1 hd, rfl⟩)))

/-- Everything the host's turn can be: a wait, an accepted word, or the next micro-step. -/
theorem hostTurn_cases {s t : State} (h : hostTurn s = .next t) :
    (s.seq = .idle ∧ s.port = [] ∧ t = s) ∨
    (s.seq = .idle ∧ ∃ w rest, s.port = w :: rest ∧ present w { s with port := rest } = .next t) ∨
    (s.seq ≠ .idle ∧ t = s.continueCommand) := by
  unfold hostTurn at h
  split at h
  · next h1 h2 => cases h; exact .inl ⟨h1, h2, rfl⟩
  · next w rest h1 h2 => exact .inr (.inl ⟨h1, w, rest, h2, h⟩)
  · next h1 h2 =>
    cases h
    refine .inr (.inr ⟨?_, rfl⟩)
    intro hs
    cases hp : s.port with
    | nil => exact h1 hs hp
    | cons w rest => exact h2 w rest hs hp

/-! The trace only grows at its end. -/

@[simp] theorem takeEdgeEvent_trace (s : State) (c : Channel) :
    (s.takeEdgeEvent c).trace = s.trace ++ [.edge c] := by
  cases c <;> rfl

end Sys2Proof.Machine
end

