-- ==== Sys2Proof/Laws/Mapper.lean ====
section
/-! SUPPORT. Everything the mapper can answer and what a speed command does with it (40_mapper.md,
45_facade.md R114). -/

namespace Sys2Proof.Machine

theorem regime_eq (p : Config.Params) (c : Channel) (rpm : Nat) :
    regime p c rpm = (divisorInUse p c rpm, codeInUse p c rpm) := by
  cases c <;> simp only [regime, divisorInUse, codeInUse]
  split_ifs <;> first | rfl | omega

theorem clampTop_eq (c : Channel) (t : Nat) : clampTop c t = (min t (topMax c), decide (topMax c < t)) := by
  unfold clampTop
  split_ifs with h
  · simp [h]
    omega
  · simp [h]
    omega

/-- Everything an accepted speed gives. -/
theorem mapSpeed_setting {p : Config.Params} {c : Channel} {rpm top : Nat} {ps : Code} {clamped : Bool}
    (h : mapSpeed p c rpm = .setting top ps clamped) :
    stepFreq p rpm ≠ 0 ∧ quotient p (stepFreq p rpm) (divisorInUse p c rpm) ≠ 0 ∧
      top = min (quotient p (stepFreq p rpm) (divisorInUse p c rpm) - 1) (topMax c) ∧
      ps = codeInUse p c rpm ∧
      clamped = decide (topMax c < quotient p (stepFreq p rpm) (divisorInUse p c rpm) - 1) := by
  unfold mapSpeed at h
  dsimp only at h
  simp only [regime_eq, clampTop_eq] at h
  split_ifs at h with h1 h2
  injection h with h3 h4 h5
  exact ⟨h1, h2, h3.symm, h4.symm, h5.symm⟩

theorem mapSpeed_zero (p : Config.Params) (c : Channel) : mapSpeed p c 0 = .invalidSpeed := by
  simp [mapSpeed, stepFreq]

theorem mapSpeed_top_lt {p : Config.Params} {c : Channel} {rpm top : Nat} {ps : Code} {clamped : Bool}
    (h : mapSpeed p c rpm = .setting top ps clamped) : top < 2 ^ width c := by
  have h1 := (mapSpeed_setting h).2.2.1
  have h2 := topMax_lt c
  omega

theorem divisorInUse_pos {p : Config.Params} (hp : p.WellFormed) (c : Channel) (rpm : Nat) :
    0 < divisorInUse p c rpm := by
  obtain ⟨_, _, _, w1, w2, w3, _⟩ := hp
  cases c <;> simp only [divisorInUse]
  · split_ifs <;> omega
  · omega

/-- What a speed command does to the channels. -/
theorem applySpeed_fst (s : State) (c : Channel) (rpm : Nat) :
    (s.applySpeed c rpm).1 = s.setChan c (speedChan (mapSpeed s.config c rpm) (s.chan c)) := by
  unfold State.applySpeed
  cases h : mapSpeed s.config c rpm with
  | invalidSpeed => simp [speedChan]
  | setting top ps clamped =>
    simp only [speedChan, Chan.program, Chan.start, ofNat_ushiftRight_one top (mapSpeed_top_lt h)]

/-- The status it earns. -/
theorem applySpeed_code (s : State) (c : Channel) (rpm : Nat) :
    (s.applySpeed c rpm).2.code = speedCode (mapSpeed s.config c rpm) := by
  unfold State.applySpeed
  cases mapSpeed s.config c rpm with
  | invalidSpeed => rfl
  | setting top ps clamped => cases clamped <;> rfl

end Sys2Proof.Machine
end

