-- ==== Sys2Proof/Laws/Dispatch.lean ====
section
/-! SUPPORT. Everything presenting a word and executing a command can do: the answers before a command executes
(30_encoding.md R64), and which of a channel's elements a command can change. -/

namespace Sys2Proof.Machine

theorem present_of_decode_ok {w : Command} {s : State} {i : Instr} (h : decode w = .ok i) :
    present w s = exec i s := by
  unfold present
  rw [h]

theorem present_of_decode_error {w : Command} {s : State} {e : Reject} (h : decode w = .error e) :
    present w s = .next (s.rejectWord e) := by
  unfold present
  rw [h]

theorem rejectWord_faulted (e : Reject) {s : State} (h1 : s.seq = .idle) (h2 : s.fault ≠ 0) :
    s.rejectWord e = s.answeredRefusal := by
  simp only [State.rejectWord, h1, ne_eq, not_true_eq_false, if_false, if_pos h2]
  rfl

theorem rejectWord_raises (e : Reject) {s : State} (h1 : s.seq = .idle) (h2 : s.fault = 0) :
    s.rejectWord e = s.answeredFault (rejectRaises e).status.code := by
  simp only [State.rejectWord, h1, ne_eq, not_true_eq_false, if_false, h2]
  rfl

theorem rejectWord_chan (s : State) (e : Reject) (c : Channel) : (s.rejectWord e).chan c = s.chan c := by
  unfold State.rejectWord
  split_ifs <;> cases c <;> rfl

/-- Every command answers a next state. -/
theorem exec_next (i : Instr) (s : State) : ∃ t, exec i s = .next t := by
  cases i <;> exact ⟨_, rfl⟩

theorem exec_busy (i : Instr) {s : State} (h : s.seq ≠ .idle) : exec i s = .next s := by
  cases i <;>
    simp only [exec, execEnable, execSetDir, execSetSpeed, execSetSpeedBoth, execMove, execStopAll,
      execResetCounts, execGetStepCount, execProgram, execStart, execStop, execMapSpeed, execEvtEnable, ifReady_busy h]
  simp [execInit, State.initIfReady, h]

theorem exec_faulted (i : Instr) {s : State} (h1 : s.seq = .idle) (h2 : s.fault ≠ 0) :
    exec i s = .next s.answeredRefusal := by
  cases i <;>
    simp only [exec, execEnable, execSetDir, execSetSpeed, execSetSpeedBoth, execMove, execStopAll,
      execResetCounts, execGetStepCount, execProgram, execStart, execStop, execMapSpeed, execEvtEnable,
      ifReady_faulted h1 h2] <;>
    try rfl
  simp only [execInit, State.initIfReady, h1, ne_eq, not_true_eq_false, if_false, if_pos h2]
  rfl

theorem exec_uninitialised (i : Instr) {s : State} (h1 : s.seq = .idle) (h2 : s.fault = 0)
    (h3 : s.inited = false) (h4 : i ≠ .init) : exec i s = .next (s.answeredFault 0x12) := by
  cases i <;>
    first
    | exact absurd rfl h4
    | simp only [exec, execEnable, execSetDir, execSetSpeed, execSetSpeedBoth, execMove, execStopAll,
        execResetCounts, execGetStepCount, execProgram, execStart, execStop, execMapSpeed, execEvtEnable,
        ifReady_uninitialised h1 h2 h3]
      rfl

/-- All that executing a command can be: nothing at a busy port, the refusal, `NotInitialised`, or the command's
own effect. -/
theorem exec_cases {i : Instr} {s t : State} (h : exec i s = .next t) :
    (s.seq ≠ .idle ∧ t = s) ∨
    (s.seq = .idle ∧ s.fault ≠ 0 ∧ t = s.answeredRefusal) ∨
    (s.seq = .idle ∧ s.fault = 0 ∧ s.inited = false ∧ i ≠ .init ∧ t = s.answeredFault 0x12) ∨
    (s.seq = .idle ∧ s.fault = 0 ∧ i = .init) ∨
    s.Ready := by
  by_cases h1 : s.seq = .idle
  · by_cases h2 : s.fault = 0
    · by_cases h4 : i = .init
      · exact .inr (.inr (.inr (.inl ⟨h1, h2, h4⟩)))
      · by_cases h3 : s.inited = false
        · rw [exec_uninitialised i h1 h2 h3 h4] at h
          cases h
          exact .inr (.inr (.inl ⟨h1, h2, h3, h4, rfl⟩))
        · exact .inr (.inr (.inr (.inr ⟨h1, h2, by simpa using h3⟩)))
    · rw [exec_faulted i h1 h2] at h
      cases h
      exact .inr (.inl ⟨h1, h2, rfl⟩)
  · rw [exec_busy i h1] at h
    cases h
    exact .inl ⟨h1, rfl⟩

/-- No command other than `INIT` writes a counter, the timer's own among them, or an event flag. -/
theorem exec_chan_events {i : Instr} {s t : State} (h : exec i s = .next t) (hi : i ≠ .init) (c : Channel) :
    (t.chan c).edgeCount = (s.chan c).edgeCount ∧ (t.chan c).ip = (s.chan c).ip ∧
      (t.chan c).ovr = (s.chan c).ovr ∧ (t.chan c).cnt = (s.chan c).cnt := by
  rcases exec_cases h with ⟨_, rfl⟩ | ⟨_, _, rfl⟩ | ⟨_, _, _, _, rfl⟩ | ⟨_, _, h3⟩ | hr
  · simp
  · cases c <;> exact ⟨rfl, rfl, rfl, rfl⟩
  · cases c <;> exact ⟨rfl, rfl, rfl, rfl⟩
  · exact absurd h3 hi
  · cases i <;> first | exact absurd rfl hi | skip
    all_goals
      simp only [exec, execEnable, execSetDir, execSetSpeed, execSetSpeedBoth, execMove, execStopAll,
        execResetCounts, execGetStepCount, execProgram, execStart, execStop, execMapSpeed, execEvtEnable,
        ifReady_ready hr] at h
      injection h with h
      subst h
    case move a steps =>
      split <;> cases a <;> cases c <;> simp [State.writeDirection, State.writeEnable, State.chan]
    case program a top ps =>
      split <;> cases a <;> cases c <;> simp [State.raise, Chan.program, State.chan]
    case mapSpeed a rpm => split <;> simp [State.condInvalidSpeed]
    case setSpeed a rpm =>
      rw [applySpeed_fst]
      cases mapSpeed s.config a rpm <;> cases a <;> cases c <;> simp [speedChan]
    case setSpeedBoth l r =>
      simp only [applySpeed_fst, setChan_config]
      cases mapSpeed s.config .left l <;> cases mapSpeed s.config .right r <;> cases c <;> simp [speedChan]
    case stopAll => cases c <;> simp [Chan.stop, State.writeEnable]
    case resetCounts => cases c <;> simp [State.enterSection, State.chan]
    case enable a flag => cases a <;> cases c <;> simp [State.writeEnable]
    case setDir a forward => cases a <;> cases c <;> simp [State.writeDirection]
    case getStepCount a => cases a <;> cases c <;> simp [State.enterSection, State.chan]
    case start a => cases a <;> cases c <;> simp [Chan.start]
    case stop a => cases a <;> cases c <;> simp [Chan.stop]
    case evtEnable a flag => cases a <;> cases c <;> simp

end Sys2Proof.Machine
end

