-- ==== Sys2Proof/Laws/Steps.lean ====
section
/-! SUPPORT. One step of each agent, and what it can change of a channel. -/

namespace Sys2Proof.Machine

/-! Which step is taken. -/

theorem step_host {s : State} (h1 : s.nextTurn = .host) (h2 : s.NoHandlerDue) : step s = hostTurn s.endTurn := by
  unfold step
  rw [h1]
  unfold runTurn
  rw [dueHandler_none.2 h2]

theorem step_timer {s : State} {c : Channel} (h1 : s.nextTurn = .timer c) (h2 : s.NoHandlerDue) :
    step s = .next (s.endTurn.timerTurn c) := by
  unfold step
  rw [h1]
  unfold runTurn
  rw [dueHandler_none.2 h2]

theorem step_handler {s : State} {c : Channel} (h1 : s.nextTurn ≠ .reset) (h2 : s.dueHandler s.nextTurn = some c) :
    step s = .next ((s.afterHandler s.nextTurn c).takeEdgeEvent c) := by
  unfold step runTurn
  rw [h2]
  cases h : s.nextTurn <;> simp_all

theorem hostTurn_word {s : State} {w : Command} {rest : List Command} (h1 : s.seq = .idle) (h2 : s.port = w :: rest) :
    hostTurn s = present w { s with port := rest } := by
  unfold hostTurn
  rw [h1, h2]

theorem hostTurn_inProgress {s : State} (h : s.seq ≠ .idle) : hostTurn s = .next s.continueCommand := by
  unfold hostTurn
  split <;> simp_all

/-! What it changes of a channel. -/

theorem takeEdgeEvent_chan (s : State) (c d : Channel) :
    (s.takeEdgeEvent c).chan d =
      if c = d then { s.chan d with edgeCount := (s.chan d).edgeCount + 1, ip := false } else s.chan d := by
  cases c <;> cases d <;> simp [State.takeEdgeEvent]

theorem tick_chan (s : State) (c d : Channel) :
    (s.tick c).chan d = if c = d then (s.chan d).tick else s.chan d := by
  unfold State.tick
  split_ifs with h1 h2 h2
  · subst h2
    simp
  · rw [emit_chan, chan_setChan_ne _ (fun e => h2 e.symm)]
  · subst h2
    simp
  · rw [chan_setChan_ne _ (fun e => h2 e.symm)]

theorem timerTurn_chan_ne (s : State) {c d : Channel} (h : c ≠ d) : (s.timerTurn c).chan d = s.chan d := by
  unfold State.timerTurn
  split_ifs
  · rfl
  · rw [tick_chan, if_neg h]

theorem timerTurn_chan (s : State) (c d : Channel) :
    ((s.timerTurn c).chan d).edgeCount = (s.chan d).edgeCount ∧
      ((s.timerTurn c).chan d).enabled = (s.chan d).enabled ∧ ((s.timerTurn c).chan d).cs = (s.chan d).cs ∧
      ((s.timerTurn c).chan d).ie = (s.chan d).ie ∧
      ((s.timerTurn c).chan d).direction = (s.chan d).direction := by
  unfold State.timerTurn
  split_ifs
  · simp
  · rw [tick_chan, tick_eq]
    split_ifs <;> simp

/-- A further micro-step leaves a channel's driver, timer and event flags alone. -/
theorem continueCommand_chan (s : State) (c : Channel) :
    (s.continueCommand.chan c).enabled = (s.chan c).enabled ∧ (s.continueCommand.chan c).cs = (s.chan c).cs ∧
      (s.continueCommand.chan c).ip = (s.chan c).ip ∧ (s.continueCommand.chan c).ovr = (s.chan c).ovr ∧
      (s.continueCommand.chan c).direction = (s.chan c).direction ∧
      (s.continueCommand.chan c).cnt = (s.chan c).cnt ∧ (s.continueCommand.chan c).top = (s.chan c).top := by
  unfold State.continueCommand
  split
  · simp
  · next d i h =>
    unfold State.snapStep
    split_ifs <;> cases d <;> cases c <;> simp [State.exitSection, State.chan]
  · next d i h =>
    unfold State.zeroStep
    split_ifs <;> cases d <;> cases c <;> simp [State.exitSection, State.enterSection, State.chan]
  · next d n p h =>
    unfold State.burstStep
    split
    · cases d <;> cases c <;> simp [State.writePulse, State.chan]
    · split_ifs <;> cases d <;> cases c <;> simp [State.writePulse, State.chan]

/-- Of the further micro-steps only a zeroing one writes a counter, one byte of it. -/
theorem continueCommand_edgeCount (s : State) (c : Channel) :
    (s.continueCommand.chan c).edgeCount = (s.chan c).edgeCount ∨
    ∃ i : Fin 5, i.val < 4 ∧ s.seq = .zero c i ∧
      (s.continueCommand.chan c).edgeCount = setByte (s.chan c).edgeCount i.val 0 := by
  unfold State.continueCommand
  split
  · exact .inl rfl
  · next d i h =>
    left
    unfold State.snapStep
    split_ifs <;> cases d <;> cases c <;> simp [State.exitSection, State.chan]
  · next d i h =>
    unfold State.zeroStep
    split_ifs with hi
    · by_cases e : d = c
      · subst e
        exact .inr ⟨i, hi, h, by cases d <;> simp [State.chan]⟩
      · left
        cases d <;> cases c <;> simp [State.chan] <;> exact absurd rfl e
    · left
      cases d <;> cases c <;> simp [State.exitSection, State.enterSection, State.chan]
  · next d n p h =>
    left
    unfold State.burstStep
    split
    · cases d <;> cases c <;> simp [State.writePulse, State.chan]
    · split_ifs <;> cases d <;> cases c <;> simp [State.writePulse, State.chan]

/-! Runs and traces. -/

/-- A property that every step from an `ok` state keeps holds at the end of a run. -/
theorem Reaches.keeps {ok P : State → Prop} {s t : State} (h : Reaches ok s t) (h0 : P s)
    (hs : ∀ u v, ok u → P u → step u = .next v → P v) : P t := by
  induction h with
  | refl s => exact h0
  | head h1 h2 _ ih => exact ih (hs _ _ h1 h0 h2)

theorem edges_append (c : Channel) (a b : List Event) : edges c (a ++ b) = edges c a + edges c b := by
  simp [edges]

theorem toggles_append (c : Channel) (a b : List Event) : toggles c (a ++ b) = toggles c a + toggles c b := by
  simp [toggles]

theorem delayUnits_append (a b : List Event) : delayUnits (a ++ b) = delayUnits a + delayUnits b := by
  simp [delayUnits]

end Sys2Proof.Machine
end

