-- ==== Sys2Proof/Tests/Slice0.lean ====
section
/-! SUPPORT. Small tests, every expected result taken from the spec's rules and vectors (95_test_vectors.md; the vector
is named at each), and one witness for every statement that has hypotheses. -/

namespace Sys2Proof.Tests

open Sys2Proof.Machine

/-! ## Helpers -/

/-- CFG-A of 95_test_vectors.md section 0. -/
def cfgA : Config.Params :=
  { Config.cfgB with divLHigh := 8, divLLow := 64, psLHigh := 2, psLLow := 3 }

/-- CFG-C of 95_test_vectors.md section 0. -/
def cfgC : Config.Params := { cfgA with stepsPerRev := 48 }

/-- The block after `INIT` under these parameters (vector F1). -/
def ready (p : Config.Params) : State :=
  { State.reset with
    left := { Chan.reset 8 with ie := true }, right := { Chan.reset 16 with ie := true },
    inited := true, config := p }

/-- The block after `INIT` under CFG-B. -/
def readyB : State := ready Config.cfgB

/-- `readyB` with another channel Left. -/
def withLeft (k : Chan 8) : State := { readyB with left := k }

/-- Channel Left after `INIT`. -/
def leftB : Chan 8 := readyB.left

/-- `readyB` at the turn `t`. -/
def atTurn (t : Turn) : State := { readyB with turns := [t] }

/-- A view of the next state, if the outcome is one. -/
def view {α : Type} (x : Host.Outcome State Fault Refusal) (f : State → α) : Option α :=
  match x with
  | .next t => some (f t)
  | .fault _ => none
  | .refused _ => none

/-- The response. -/
def response (s : State) : Byte × Word := (s.status, s.value)

/-- A run of `n` steps whose every state but the last is in progress. -/
def runInProgress : Nat → State → Option State
  | 0, s => some s
  | n + 1, s =>
    if s.seq ≠ .idle ∧ s.nextTurn ≠ .reset then
      match step s with
      | .next t => runInProgress n t
      | .fault _ => none
      | .refused _ => none
    else none

theorem reaches_of_run : ∀ (n : Nat) (s t : State), runInProgress n s = some t → Reaches State.InProgress s t
  | 0, s, t, h => by
    cases h
    exact .refl _
  | n + 1, s, t, h => by
    unfold runInProgress at h
    split_ifs at h with hp
    split at h
    · next u hu => exact .head hp hu (reaches_of_run n u t h)
    · cases h
    · cases h

/-! ## WellFormed refuses, one ill-formed term for each check (30_encoding.md R63) -/

theorem test_wf_setSpeed : (Instr.setSpeed .left 65536).wellFormed = false := by decide
theorem test_wf_setSpeedBoth_left : (Instr.setSpeedBoth 65536 0).wellFormed = false := by decide
theorem test_wf_setSpeedBoth_right : (Instr.setSpeedBoth 0 65536).wellFormed = false := by decide
theorem test_wf_move_low : (Instr.move .left (-32769)).wellFormed = false := by decide
theorem test_wf_move_high : (Instr.move .left 32768).wellFormed = false := by decide
theorem test_wf_program : (Instr.program .left 65536 1).wellFormed = false := by decide
theorem test_wf_mapSpeed : (Instr.mapSpeed .left 65536).wellFormed = false := by decide
theorem test_wf_accepts : (Instr.move .right (-32768)).wellFormed = true := by decide

/-! ## Decoding: words written out field by field (30_encoding.md R57, R61; DV1 to DV27) -/

theorem test_decode_init : decode 0x010000000000 = .ok .init := by rfl
theorem test_decode_enable : decode 0x020000010000 = .ok (.enable .left true) := by rfl
theorem test_decode_setDir : decode 0x030100010000 = .ok (.setDir .right true) := by rfl
theorem test_decode_setSpeed : decode 0x040002580000 = .ok (.setSpeed .left 600) := by rfl
theorem test_decode_setSpeedBoth : decode 0x050002580000 = .ok (.setSpeedBoth 600 0) := by rfl
theorem test_decode_move : decode 0x0601FFFD0000 = .ok (.move .right (-3)) := by rfl
theorem test_decode_stopAll : decode 0x070000000000 = .ok .stopAll := by rfl
theorem test_decode_resetCounts : decode 0x080000000000 = .ok .resetCounts := by rfl
theorem test_decode_getStepCount : decode 0x090100000000 = .ok (.getStepCount .right) := by rfl
theorem test_decode_program : decode 0x1000003D0003 = .ok (.program .left 61 3) := by rfl
theorem test_decode_start : decode 0x110100000000 = .ok (.start .right) := by rfl
theorem test_decode_stop : decode 0x120000000000 = .ok (.stop .left) := by rfl
theorem test_decode_mapSpeed : decode 0x130102580000 = .ok (.mapSpeed .right 600) := by rfl
theorem test_decode_evtEnable : decode 0x140000000000 = .ok (.evtEnable .left false) := by rfl

/-- DV20 to DV27. -/
theorem test_decode_rejects :
    decode 0x150000000000 = .error .illegalOpcode ∧ decode 0x010000000001 = .error .reservedBits ∧
    decode 0x070100000000 = .error .reservedBits ∧ decode 0x020000020000 = .error .reservedBits ∧
    decode 0x100000100008 = .error .reservedBits ∧ decode 0x090200000000 = .error .invalidChannel ∧
    decode 0x04FF02580000 = .error .invalidChannel ∧ decode 0x040500000001 = .error .reservedBits :=
  ⟨rfl, rfl, rfl, rfl, rfl, rfl, rfl, rfl⟩

/-- The words of 30_encoding.md R70's examples, from the fields. -/
theorem test_encode :
    encode (.move .right (-3)) = 0x0601FFFD0000 ∧ encode (.evtEnable .right true) = 0x140100010000 ∧
    encode (.program .left 499 2) = 0x100001F30002 ∧ encode (.setSpeedBoth 600 600) = 0x050002580258 := by decide

/-- 30_encoding.md R70, R71. -/
theorem test_text :
    Instr.text (.move .right (-3)) = "MOVE R, -3" ∧ Instr.text (.setDir .right true) = "SET_DIR R, fwd" ∧
    Instr.text (.program .left 61 3) = "PROGRAM L, 61, 3" ∧ Instr.unmask .left = .evtEnable .left true := by
  decide

/-- Lines of programs P2, P4 and P5, and what R70 does not accept: `MOVE` with a hexadecimal count, an operand too
many. -/
theorem test_assemble :
    assemble "MOVE R, -3            ; 7 micro-steps" = some (.command 0x0601FFFD0000 none) ∧
    assemble "RESET_COUNTS /1" = some (.command 0x080000000000 (some 1)) ∧
    assemble ".tick R, 1000" = some (.tick .right 1000) ∧ assemble ".cont" = some (.cont none) ∧
    assemble "GET_STEP_COUNT 2" = some (.command 0x090200000000 none) ∧
    assemble "MOVE R, 0x3" = none ∧ assemble "INIT L" = none := by decide

/-- The pseudo-instructions and the other spellings (30_encoding.md R70, R71). -/
theorem test_assemble_pseudo :
    assemble "DISABLE R" = some (.command 0x020100000000 none) ∧
    assemble "UNMASK L" = some (.command 0x140000010000 none) ∧ assemble "REV L" = some (.command 0x030000000000 none) ∧
    assemble "EVT_ENABLE L, off" = some (.command 0x140000000000 none) ∧
    assemble "PROGRAM L, 0x1F3, 2" = some (.command 0x100001F30002 none) := by decide

/-- One micro-step of a command, then two more (30_encoding.md R71). -/
theorem test_script :
    (performAll [.command 0x090000000000 (some 1), .cont (some 2)] readyB).seq = .snap .left 2 := by decide

/-! ## Commands, one step each -/

/-- F1: pins driven, events enabled, nothing else. -/
theorem test_init : view (exec .init { State.reset with config := Config.cfgB }) id = some readyB := by rfl

/-- F12: the counters and levels of running channels are cleared. -/
theorem test_init_again :
    view (exec .init (withLeft { leftB with edgeCount := 9, pulse := true, cs := 3, ovr := true }))
      (fun t => (t.left, response t)) = some (leftB, 0, 0) := by decide

/-- Q1. -/
theorem test_enable :
    view (exec (.enable .left true) readyB) (fun t => (t.left.enabled, t.trace, response t)) =
      some (true, [.pinWrite .left .en true], 0, 0) := by decide

/-- Q4: reverse is 1 in the state and in the trace. -/
theorem test_setDir :
    view (exec (.setDir .left false) readyB) (fun t => (t.left.direction, t.trace)) =
      some (.reverse, [.pinWrite .left .dir true]) := by decide

/-- F3: CFG-A clamps and starts. -/
theorem test_setSpeed_clamped :
    view (exec (.setSpeed .left 600) (ready cfgA))
      (fun t => (t.left.top, t.left.cmp, t.left.prescaler, t.left.cs, response t)) =
      some (255, 127, 2, 2, 1, 0) := by decide

/-- F4: a rejected speed leaves a running channel running. -/
theorem test_setSpeed_rejected :
    view (exec (.setSpeed .left 0) (withLeft { leftB with top := 61, cmp := 30, prescaler := 3, cs := 3 }))
      (fun t => (t.left.top, t.left.cs, response t)) = some (61, 3, 2, 0) := by decide

/-- F7: the worse status, and both packed. -/
theorem test_setSpeedBoth :
    view (exec (.setSpeedBoth 600 0) (ready cfgA)) (fun t => (t.left.top, t.left.cs, t.right.cs, response t)) =
      some (255, 2, 0, 2, 0x00000201) := by decide

/-- F8. -/
theorem test_setSpeedBoth_both :
    view (exec (.setSpeedBoth 600 600) (ready cfgA)) (fun t => (t.left.top, t.right.top, t.right.cmp, response t)) =
      some (255, 499, 249, 1, 1) := by decide

/-- B6: the magnitude of -32768 does not overflow. -/
theorem test_move :
    view (exec (.move .left (-32768)) readyB) (fun t => (t.left.enabled, t.left.direction, t.seq)) =
      some (true, .reverse, .burst .left 32768 .high) := by decide

/-- B1: zero steps enable the driver, face forward and respond at once. -/
theorem test_move_zero :
    view (exec (.move .left 0) readyB) (fun t => (t.left.enabled, t.left.direction, t.seq, t.trace)) =
      some (true, .forward, .idle, [.pinWrite .left .en true, .pinWrite .left .dir false]) := by decide

/-- B7: the burst writes levels, it does not complement. -/
theorem test_burst_high :
    view (hostTurn { withLeft { leftB with pulse := true } with seq := .burst .left 2 .high })
      (fun t => (t.left.pulse, t.seq, t.trace)) =
      some (true, .burst .left 2 .low, [.pinWrite .left .pulse true, .delay 5]) := by decide

/-- F11. -/
theorem test_stopAll :
    view (exec .stopAll { readyB with
        left := { leftB with enabled := true, cs := 3, edgeCount := 124 }
        right := { readyB.right with enabled := true, cs := 2, edgeCount := 10 } })
      (fun t => ((t.left.enabled, t.left.cs, t.left.edgeCount), (t.right.enabled, t.right.cs, t.right.edgeCount), t.trace)) =
      some ((false, 0, 124), (false, 0, 10), [.pinWrite .left .en false, .pinWrite .right .en false]) := by decide

/-- P4: entry on Left. -/
theorem test_resetCounts :
    view (exec .resetCounts readyB) (fun t => (t.seq, t.left.ie, t.right.ie, t.savedIe)) =
      some (.zero .left 0, false, true, true) := by decide

/-- P4: exit on Left and entry on Right in one step. -/
theorem test_resetCounts_middle :
    view (hostTurn { withLeft { leftB with ie := false } with seq := .zero .left 4, savedIe := true })
      (fun t => (t.seq, t.left.ie, t.right.ie, t.savedIe)) = some (.zero .right 0, true, false, true) := by decide

/-- E4, micro-step 2: byte 0 is copied, the others keep what was there. -/
theorem test_getStepCount_byte :
    view (hostTurn { withLeft { leftB with ie := false, edgeCount := 0x0000A0FF } with
        seq := .snap .left 0, snap := 0x11223344 }) (fun t => (t.snap, t.seq)) =
      some (0x112233FF, .snap .left 1) := by decide

/-- E1, E6: micro-step 6 halves and restores, it does not enable. -/
theorem test_getStepCount_exit :
    view (hostTurn { withLeft { leftB with ie := false, edgeCount := 7 } with
        seq := .snap .left 4, snap := 7, savedIe := false }) (fun t => (t.left.ie, t.seq, response t)) =
      some (false, .idle, 0, 3) := by decide

/-- T2: clamped, not wrapped. -/
theorem test_program_clamped :
    view (exec (.program .left 499 2) readyB) (fun t => (t.left.top, t.left.cmp, t.left.cs, response t)) =
      some (255, 127, 0, 1, 0) := by decide

/-- DV34: code 6 selects no divisor in table T. -/
theorem test_program_no_divisor :
    view (exec (.program .left 16 6) readyB) (fun t => (t.left.top, t.fault, response t)) =
      some (0, 0x11, 0x11, 0) := by decide

/-- T8 and T7. -/
theorem test_start :
    view (exec (.start .left) (withLeft { leftB with prescaler := 3 })) (fun t => t.left.cs) = some 3 ∧
    view (exec (.start .left) readyB) (fun t => (t.left.cs, t.status)) = some (0, 0) := by decide

/-- T9: the level and the pending event stay. -/
theorem test_stop :
    view (exec (.stop .left) (withLeft { leftB with cs := 3, prescaler := 3, pulse := true, ip := true }))
      (fun t => (t.left.cs, t.left.prescaler, t.left.pulse, t.left.ip)) = some (0, 3, true, true) := by decide

/-- M18 and M22. -/
theorem test_mapSpeed :
    view (exec (.mapSpeed .left 600) readyB) response = some (0, 0x0003003D) ∧
    view (exec (.mapSpeed .left 65535) readyB) response = some (2, 0) := by decide

/-- M7, M8 (the threshold), M21, M24, M32. -/
theorem test_map :
    mapSpeed cfgA .left 500 = .setting 74 3 false ∧ mapSpeed cfgA .left 501 = .setting 255 2 true ∧
    mapSpeed Config.cfgB .left 30000 = .setting 0 3 false ∧ mapSpeed Config.cfgB .right 1 = .setting 65535 2 true ∧
    mapSpeed cfgC .right 1 = .invalidSpeed := by decide

/-- E9. -/
theorem test_evtEnable :
    view (exec (.evtEnable .left false) (withLeft { leftB with ip := true })) (fun t => (t.left.ie, t.left.ip)) =
      some (false, true) := by decide

/-! ## Conditions and faults -/

/-- DV28, DV29: before `INIT`. -/
theorem test_not_initialised :
    view (present 0x020000010000 State.reset) (fun t => (t.fault, response t)) = some (0x12, 0x12, 0) ∧
    view (present 0x040000000000 State.reset) (fun t => (t.fault, response t)) = some (0x12, 0x12, 0) := by decide

/-- DV30: the channel is checked before `inited`. -/
theorem test_channel_first :
    view (present 0x090200000000 State.reset) (fun t => (t.fault, response t)) = some (0x10, 0x10, 0) := by decide

/-- DV31, DV32: refusal, of `INIT` and of an undefined opcode too. -/
theorem test_refused :
    view (present 0x010000000000 { State.reset with fault := 0x12 }) (fun t => (t.fault, t.inited, response t)) =
      some (0x12, false, 0x1F, 0) ∧
    view (present 0xFF0000000000 { State.reset with fault := 0x10 }) (fun t => (t.fault, response t)) =
      some (0x10, 0x1F, 0) := by decide

/-! ## The asynchronous agents -/

/-- T13, tick 2: a toggle while an event is pending is an overrun. -/
theorem test_tick_overrun :
    view (step { withLeft { leftB with cs := 1, pulse := true, ip := true, ie := false } with turns := [.timer .left] })
      (fun t => ((t.left.pulse, t.left.ip, t.left.ovr), (t.left.edgeCount, t.trace))) =
      some ((false, true, true), (0, [.toggle .left false])) := by decide

/-- T11, tick 4: the match at `top` only ends the period. -/
theorem test_tick_top :
    view (step { withLeft { leftB with cs := 1, top := 3, cmp := 1, cnt := 3, pulse := true } with turns := [.timer .left] })
      (fun t => (t.left.cnt, t.left.pulse, t.trace)) = some (0, true, []) := by decide

/-- T12: a counter above `top` wraps. -/
theorem test_tick_wrap :
    view (step { withLeft { leftB with cs := 1, top := 9, cmp := 4, cnt := 255 } with turns := [.timer .left] })
      (fun t => (t.left.cnt, t.left.pulse)) = some (0, false) := by decide

/-- E3: the counter wraps with no flag; the handler goes before the timer and uses up no turn of it. -/
theorem test_handler_wrap :
    view (step { withLeft { leftB with cs := 1, ip := true, edgeCount := 0xFFFFFFFF } with turns := [.timer .left] })
      (fun t => ((t.left.edgeCount, t.left.ip, t.left.ovr), (t.fault, t.turns, t.trace))) =
      some ((0, false, false), (0, [.timer .left], [.edge .left])) := by decide

/-- Z2: reset in the middle of a command. -/
theorem test_reset_mid_command :
    view (step { atTurn .reset with seq := .snap .left 2, savedIe := true, fault := 0x11 })
      (fun t => ((t.seq, t.savedIe, t.fault), (t.inited, t.left.ie, t.pin .left .pulse))) =
      some ((.idle, false, 0), (false, false, .undriven)) := by decide

/-- A placed word is the very next thing that runs. -/
theorem test_withFetchWord :
    view (step ((withLeft { leftB with ip := true }).withFetchWord 48 0x040002580000))
      (fun t => (t.left.top, t.left.cs, t.port)) = some (61, 3, []) := by decide

/-- From reset the first word placed is the first to be answered: `INIT` completes, any other command is not
initialised (30_encoding.md R64 (5)). -/
theorem test_first_word_after_reset :
    view (step (State.reset.withFetchWord 48 0x010000000000)) (fun t => (t.status, t.inited)) = some (0x00, true) ∧
    view (step (State.reset.withFetchWord 48 0x110100000000)) (fun t => (t.status, t.inited)) = some (0x12, false) :=
  ⟨rfl, rfl⟩

/-! ## Witnesses: states and operands that meet the hypotheses of each statement -/

/-- For `INIT`, and for every statement about a command that asks for `Ready` alone. -/
theorem witness_ready : readyB.Ready ∧ State.reset.seq = .idle ∧ State.reset.fault = 0 := by decide
/-- For the examples under CFG-B. -/
theorem witness_cfgB : readyB.config = Config.cfgB ∧ readyB.config.divisor .left 2 ≠ none := by decide

/-- Well-formed commands at the ends of their operands' ranges; also for `AssembledTextIsTheEncoding`. -/
theorem witness_DecodeOfEncodeIsIdentity :
    (Instr.setSpeed .left 0).wellFormed = true ∧ (Instr.setSpeed .right 65535).wellFormed = true ∧
    (Instr.setSpeedBoth 65535 65535).wellFormed = true ∧ (Instr.move .left (-32768)).wellFormed = true ∧
    (Instr.move .left 32767).wellFormed = true ∧ (Instr.program .right 65535 7).wellFormed = true ∧
    (Instr.mapSpeed .left 65535).wellFormed = true := by decide

theorem witness_DecodedWordsEncodeBack : decode 0x0500FFFFFFFF = .ok (.setSpeedBoth 65535 65535) := by rfl

theorem witness_ValidEncodingIsMaskMatch :
    opField 0x070100000000 = Opcode.stopAll.number ∧
    (0x070100000000 : Command) &&& Opcode.stopAll.maskWord ≠ Opcode.stopAll.matchWord ∧
    opField 0x090200000000 = Opcode.getStepCount.number ∧
    (0x090200000000 : Command) &&& Opcode.getStepCount.maskWord ≠ Opcode.getStepCount.matchWord := by decide

theorem witness_UndefinedOpcodesRaiseIllegalCommand :
    readyB.seq = .idle ∧ readyB.fault = 0 ∧ (opField 0x00FFFFFFFFFF).toNat = 0x00 ∧
    (opField 0x0A0000000000).toNat = 0x0A ∧ (opField 0x0F0000000000).toNat = 0x0F ∧
    (opField 0x150000000000).toNat = 0x15 ∧ (opField 0xFF0000000000).toNat = 0xFF := by decide

theorem witness_ReservedBitsRaiseIllegalCommand :
    readyB.seq = .idle ∧ readyB.fault = 0 ∧ opField 0x020000020000 = Opcode.enable.number ∧
    (0x020000020000 : Command) &&& Opcode.enable.reservedMask ≠ 0 ∧ opField 0x070100000000 = Opcode.stopAll.number ∧
    (0x070100000000 : Command) &&& Opcode.stopAll.reservedMask ≠ 0 := by decide

theorem witness_ChannelsAboveOneRaiseInvalidChannel :
    readyB.seq = .idle ∧ readyB.fault = 0 ∧ opField 0x090200000000 = Opcode.getStepCount.number ∧
    (0x090200000000 : Command) &&& Opcode.getStepCount.reservedMask = 0 ∧ (chField 0x090200000000).toNat = 2 ∧
    (0x04FF02580000 : Command) &&& Opcode.setSpeed.reservedMask = 0 ∧ (chField 0x04FF02580000).toNat = 255 := by decide

/-- One state and word for each clause of `ExceptionsInOrder`, here for `ENABLE`; `INIT`'s own first two clauses. -/
theorem witness_ExceptionsInOrder :
    opField 0x020000010000 = Opcode.enable.number ∧ ({ readyB with fault := 0x10 } : State).fault ≠ 0 ∧
    (0x020000010001 : Command) &&& Opcode.enable.reservedMask ≠ 0 ∧
    (0x020000010000 : Command) &&& Opcode.enable.reservedMask = 0 ∧
    (0x020200010000 : Command) &&& Opcode.enable.reservedMask = 0 ∧ (chField 0x020200010000).toNat = 2 ∧
    Opcode.enable.usesChannel = true ∧ (chField 0x020100010000).toNat = 1 ∧ State.reset.inited = false ∧
    opField 0x010000000001 = Opcode.init.number ∧
    (0x010000000001 : Command) &&& Opcode.init.reservedMask ≠ 0 := by decide

theorem witness_FirstFailingCheckDecides :
    Opcode.ofByte (opField 0x0A0000000000) = none ∧ readyB.Ready ∧ readyB.config.divisor .left 6 = none ∧
    readyB.config.divisor .left 0 = none ∧ mapSpeed readyB.config .left 0 = .invalidSpeed ∧
    mapSpeed readyB.config .left 65535 = .invalidSpeed ∧ State.reset.inited = false := by decide

theorem witness_EveryWordIsRefusedWhileFaulted :
    ({ readyB with fault := 0x10 } : State).seq = .idle ∧ ({ readyB with fault := 0x10 } : State).fault ≠ 0 := by decide

/-- Clause 1 and 3: a latched fault and a word at the port; clause 2: a word that raises one. -/
theorem witness_FaultLatchKeepsTheFirstFault :
    (∃ t, step { atTurn .host with fault := 0x10, port := [0] } = .next t) ∧
    ({ atTurn .host with fault := 0x10, port := [0] } : State).NoHandlerDue ∧
    ({ atTurn .host with fault := 0x10, port := [0] } : State).nextTurn = .host ∧
    view (step { atTurn .host with port := [0] }) (fun t => t.fault) = some 0x11 :=
  ⟨⟨_, rfl⟩, by decide, rfl, by decide⟩

theorem witness_RejectedSpeedChangesOnlyTheResponse :
    readyB.Ready ∧ mapSpeed readyB.config .left 65535 = .invalidSpeed ∧
    mapSpeed readyB.config .right 65535 ≠ .invalidSpeed := by decide

theorem witness_SetSpeedBothProgramsEachChannel :
    ∃ t a b, exec (.setSpeedBoth 600 0) readyB = .next t ∧ exec (.setSpeed .left 600) readyB = .next a ∧
      exec (.setSpeed .right 0) a = .next b := ⟨_, _, _, rfl, rfl, rfl⟩

theorem witness_BurstMicroStepsWriteLevels :
    ({ readyB with seq := .burst .left 1 .high } : State).seq = .burst .left 1 .high ∧
    ({ readyB with seq := .burst .left 2 .low } : State).seq = .burst .left 2 .low ∧
    ({ readyB with seq := .burst .right 1 .low } : State).seq = .burst .right 1 .low := by decide

theorem witness_ResetCountsFollowsItsTable :
    ({ readyB with seq := .zero .left 0 } : State).seq = .zero .left 0 ∧
    ({ readyB with seq := .zero .right 3 } : State).seq = .zero .right 3 ∧
    ({ readyB with seq := .zero .left 4 } : State).seq = .zero .left 4 ∧
    ({ readyB with seq := .zero .right 4 } : State).seq = .zero .right 4 := by decide

theorem witness_GetStepCountFollowsItsTable :
    ({ readyB with seq := .snap .left 0 } : State).seq = .snap .left 0 ∧
    ({ readyB with seq := .snap .right 3 } : State).seq = .snap .right 3 ∧
    ({ readyB with seq := .snap .right 4 } : State).seq = .snap .right 4 := by decide

theorem witness_ProgramWritesTopCmpPrescaler :
    readyB.Ready ∧ (2 : Code) ≠ 0 ∧ readyB.config.divisor .left 2 ≠ none ∧ readyB.config.divisor .right 2 ≠ none ∧
    topMax .left < 256 ∧ ¬ topMax .left < 255 ∧ readyB.config.divisor .left 6 = none := by decide

theorem witness_MapSpeedOnlyAnswers :
    mapSpeed readyB.config .left 0 = .invalidSpeed ∧ mapSpeed readyB.config .left 600 = .setting 61 3 false ∧
    mapSpeed readyB.config .left 1 = .setting 255 4 true := by decide

/-- Both results of the clamp, `top = 0`, and both sides of the threshold, under well-formed parameters. -/
theorem witness_Map :
    Config.cfgB.WellFormed ∧ mapSpeed Config.cfgB .left 30000 = .setting 0 3 false ∧
    mapSpeed Config.cfgB .left 500 = .setting 17 4 false ∧ mapSpeed Config.cfgB .left 501 = .setting 73 3 false ∧
    mapSpeed Config.cfgB .right 1 = .setting 65535 2 true ∧ mapSpeed Config.cfgB .left 65535 = .invalidSpeed := by decide

theorem witness_StepRunsTheDecodedCommand :
    ({ atTurn .host with port := [0x070000000000] } : State).nextTurn = .host ∧ (atTurn .host).NoHandlerDue ∧
    (atTurn .host).seq = .idle ∧ decode 0x070000000000 = .ok .stopAll ∧
    decodeTableWord 48 0x0601FFFD0000 = some (.move .right (-3)) := ⟨rfl, by decide, rfl, rfl, rfl⟩

/-- The match at `cmp` (here also at `top`), no match, and the stopped clock. -/
theorem witness_TimerTickFollowsItsRule :
    (atTurn (.timer .left)).nextTurn = .timer .left ∧ (atTurn (.timer .left)).NoHandlerDue ∧
    leftB.cnt = leftB.cmp ∧ leftB.cnt = leftB.top ∧ ({ leftB with cs := 1 } : Chan 8).cs ≠ 0 ∧
    ({ leftB with cs := 1, cnt := 255 } : Chan 8).cnt ≠ leftB.cmp ∧ leftB.cs = 0 := by decide

/-- `cnt = cmp = top = 0`, and `cnt = top = 255`. -/
theorem witness_TimerPeriodTogglesOnce :
    leftB.cmp.toNat ≤ leftB.top.toNat ∧ leftB.cnt.toNat ≤ leftB.top.toNat ∧ leftB.ip = false ∧
    ({ leftB with top := 255, cmp := 127, cnt := 255 } : Chan 8).cnt.toNat = 255 := by decide

/-- `cnt = top + 1`, and `cnt = 255`. -/
theorem witness_CounterAboveTopRunsToTheWrap :
    (4 : BitVec 8).toNat ≤ (9 : BitVec 8).toNat ∧ (9 : BitVec 8).toNat < (10 : BitVec 8).toNat ∧
    (9 : BitVec 8).toNat < (255 : BitVec 8).toNat := by decide

/-- A handler that is due, at the wrap. -/
theorem witness_HandlerStepCountsOneEvent :
    let s : State := { withLeft { leftB with ip := true, edgeCount := 0xFFFFFFFF } with turns := [.host] }
    s.nextTurn ≠ .reset ∧ s.dueHandler s.nextTurn = some .left ∧ (s.chan .left).edgeCount = 0xFFFFFFFF ∧
      ∃ t, step s = .next t := ⟨by decide, rfl, rfl, _, rfl⟩

/-- One handler due; both due at a handler's turn. -/
theorem witness_EnabledHandlersGoFirst :
    let s : State := { withLeft { leftB with ip := true } with turns := [.timer .right] }
    let u : State := { s with right := { s.right with ip := true }, turns := [.handler .right] }
    s.nextTurn ≠ .reset ∧ ¬ s.NoHandlerDue ∧ u.nextTurn = .handler .right ∧ (u.chan .right).ip = true ∧
      (u.chan .right).ie = true ∧ ¬ u.NoHandlerDue := by decide

theorem witness_AsynchronousStepsNeverFail :
    (atTurn (.timer .left)).nextTurn ≠ .reset ∧ (atTurn (.timer .left)).nextTurn ≠ .host ∧
    ¬ ({ withLeft { leftB with ip := true } with turns := [.host] } : State).NoHandlerDue := by decide

theorem witness_HardwareResetAtAnyBoundary :
    ({ atTurn .reset with seq := .burst .left 3 .low } : State).nextTurn = .reset := by decide

theorem witness_NothingRunsAfterResetUntilAWord :
    (atTurn .host).port = [] ∧ (∃ t, step (atTurn .host).hardwareReset = .next t) ∧ Instr.stopAll ≠ .init :=
  ⟨rfl, ⟨_, rfl⟩, by decide⟩

/-- A running channel meets the invariant, and it steps. -/
theorem witness_EveryStepKeepsTheInvariant :
    let s : State := { withLeft { leftB with top := 61, cmp := 30, prescaler := 3, cs := 3, enabled := true } with
      turns := [.timer .left], seq := .burst .left 32768 .high }
    BlockInv s ∧ ∃ t, step s = .next t := by
  refine ⟨⟨by decide, by decide, by decide, ⟨by decide, ?_, ?_, ?_⟩, ⟨by decide, ?_, ?_, ?_⟩, ?_⟩, _, rfl⟩
  · exact fun _ => ⟨rfl, by decide⟩
  · exact fun _ => ⟨rfl, by decide⟩
  · exact fun h => absurd h (by decide)
  · exact fun h => absurd rfl h
  · exact fun h => absurd rfl h
  · exact fun h => absurd h (by decide)
  · exact ⟨rfl, rfl, rfl, by decide, by decide⟩

/-- A read with an edge event raised inside its section: a tick between two micro-steps, held while it lasts. -/
theorem witness_SnapshotIsAtomic :
    let s : State := { withLeft { leftB with cs := 1, edgeCount := 0x000000FF } with
      turns := [.host, .host, .timer .left, .host, .host, .host] }
    s.Ready ∧ ∃ a t, exec (.getStepCount .left) s = .next a ∧ Reaches State.InProgress a t ∧ t.seq = .idle ∧
      t.left.ip = true :=
  ⟨by decide, _, _, rfl, reaches_of_run 6 _ _ rfl, rfl, rfl⟩

theorem witness_ResetCountsZeroesUnderEverySchedule :
    let s : State := { withLeft { leftB with edgeCount := 12 } with turns := List.replicate 10 .host }
    s.Ready ∧ ∃ a t, exec .resetCounts s = .next a ∧ Reaches State.InProgress a t ∧ t.seq = .idle :=
  ⟨by decide, _, _, rfl, reaches_of_run 10 _ _ rfl, rfl⟩

/-- Both a burst and a `MOVE` of 0 steps, which responds at once. -/
theorem witness_MoveProducesExactlyNCycles :
    let s : State := { readyB with turns := [.host, .host] }
    s.Ready ∧ (∃ a t, exec (.move .right (-1)) s = .next a ∧ Reaches State.InProgress a t ∧ t.seq = .idle) ∧
      ∃ a, exec (.move .right 0) s = .next a ∧ Reaches State.InProgress a a ∧ a.seq = .idle :=
  ⟨by decide, ⟨_, _, rfl, reaches_of_run 2 _ _ rfl, rfl⟩, _, rfl, .refl _, rfl⟩

/-- A further micro-step in a state that meets the invariant, at the host's turn and at a timer's. -/
theorem witness_CommandsTakeFixedMicroSteps :
    let s : State := { withLeft { leftB with ie := false } with turns := [.host], seq := .zero .left 0, savedIe := true }
    BlockInv s ∧ s.seq ≠ .idle ∧ s.nextTurn = .host ∧ s.NoHandlerDue ∧ ∃ t, step s = .next t := by
  refine ⟨⟨by decide, by decide, by decide, ⟨by decide, ?_, ?_, ?_⟩, ⟨by decide, ?_, ?_, ?_⟩, ?_⟩, by decide, rfl,
    by decide, _, rfl⟩
  · exact fun h => absurd rfl h
  · exact fun h => absurd rfl h
  · exact fun h => absurd h (by decide)
  · exact fun h => absurd rfl h
  · exact fun h => absurd rfl h
  · exact fun h => absurd h (by decide)
  · exact ⟨rfl, rfl, rfl, by decide⟩

/-- The last micro-step of a burst, and the state after it. -/
def lastPulse : State := { withLeft { leftB with enabled := true } with seq := .burst .left 1 .low }

/-- What the last micro-step of the burst leaves. -/
def afterPulse : State := (lastPulse.writePulse .left false).respond 0 0

/-- A fair run in which a command is in progress at first: the host takes the last micro-step, then waits. -/
theorem witness_CommandsEndUnderFairness :
    ∃ r : Nat → State, IsRun (fun _ => .host) r ∧ FairRun (fun _ => .host) r ∧ BlockInv (r 0) ∧ (r 0).seq ≠ .idle := by
  refine ⟨fun n => if n = 0 then lastPulse else afterPulse, fun n => ?_, ⟨fun c n h => ?_, fun n _ => ?_⟩, ?_, ?_⟩
  · cases n <;> rfl
  · exfalso
    have h := h (n + 1) (by omega)
    cases c <;> exact h rfl
  · exact ⟨n + 1, by omega, rfl, rfl, rfl⟩
  · refine ⟨by decide, by decide, by decide, ⟨by decide, ?_, ?_, ?_⟩, ⟨by decide, ?_, ?_, ?_⟩, ?_⟩
    · exact fun h => absurd rfl h
    · exact fun h => absurd rfl h
    · exact fun h => absurd h (by decide)
    · exact fun h => absurd rfl h
    · exact fun h => absurd rfl h
    · exact fun h => absurd h (by decide)
    · exact ⟨rfl, rfl, rfl, by decide, by decide⟩
  · decide

/-- Left running at `top = 1`, its events masked. -/
def masked : State := withLeft { leftB with top := 1, prescaler := 3, cs := 3, ie := false }

/-- `masked` after `n` ticks. -/
def ticked : Nat → State
  | 0 => masked
  | n + 1 => (ticked n).tick .left

theorem ticked_keeps (n : Nat) :
    (ticked n).turns = [] ∧ (ticked n).left.cs = 3 ∧ (ticked n).left.top = 1 ∧ (ticked n).left.ie = false ∧
      (ticked n).right = masked.right ∧ (ticked n).seq = .idle := by
  induction n with
  | zero => exact ⟨rfl, rfl, rfl, rfl, rfl, rfl⟩
  | succ n ih =>
    have h : (ticked (n + 1)).left = (ticked n).left.tick := tick_chan (ticked n) .left .left
    rw [h, tick_eq]
    refine ⟨?_, by split_ifs <;> exact ih.2.1, by split_ifs <;> exact ih.2.2.1, by split_ifs <;> exact ih.2.2.2.1,
      ?_, ?_⟩ <;> unfold ticked State.tick <;> split_ifs
    exacts [ih.1, ih.1, ih.2.2.2.2.1, ih.2.2.2.2.1, ih.2.2.2.2.2, ih.2.2.2.2.2]

/-- A fair run in which a timer runs for ever: every turn is its own. -/
theorem witness_RunningTimersToggleUnderFairness :
    IsRun (fun _ => .timer .left) ticked ∧ FairRun (fun _ => .timer .left) ticked ∧ BlockInv (ticked 0) ∧
    ∀ m, (ticked m).Running .left ∧ ((ticked m).chan .left).top = ((ticked 0).chan .left).top := by
  have due : ∀ m, (ticked m).NoHandlerDue := fun m => by
    obtain ⟨_, _, _, h4, h5, _⟩ := ticked_keeps m
    exact ⟨by simp [Chan.eventDue, h4], by rw [h5]; decide⟩
  have run : ∀ m, (ticked m).Running .left := fun m h => by
    have h2 := (ticked_keeps m).2.1
    rw [show (ticked m).left.cs = 0 from h] at h2
    exact absurd h2 (by decide)
  refine ⟨fun n => ?_, ⟨fun c n h => ?_, fun n h => ?_⟩, ?_, fun m => ⟨run m, (ticked_keeps m).2.2.1⟩⟩
  · obtain ⟨h1, _⟩ := ticked_keeps n
    have d : ((ticked n).withTurn (.timer .left)).dueHandler (.timer .left) = none := by
      have := due n
      unfold State.dueHandler
      rw [show ((ticked n).withTurn (.timer .left)).left.eventDue = false from this.1,
        show ((ticked n).withTurn (.timer .left)).right.eventDue = false from this.2]
    have e : ((ticked n).withTurn (.timer .left)).endTurn = ticked n := by
      unfold State.withTurn State.endTurn
      simp only [← h1]
    unfold step runTurn
    rw [show ((ticked n).withTurn (.timer .left)).nextTurn = .timer .left from rfl, d]
    simp only [e, State.timerTurn, if_neg (run n), ticked]
  · refine ⟨n, le_refl _, ?_⟩
    cases c with
    | left => exact ⟨rfl, due n, run n⟩
    | right =>
      have := h n (le_refl _)
      unfold State.Running State.chan at this
      rw [(ticked_keeps n).2.2.2.2.1] at this
      exact absurd rfl this
  · exact absurd (ticked_keeps n).2.2.2.2.2 (h n (le_refl _))
  · refine ⟨by decide, by decide, by decide, ⟨by decide, ?_, ?_, ?_⟩, ⟨by decide, ?_, ?_, ?_⟩, trivial⟩
    · exact fun _ => ⟨rfl, by decide⟩
    · exact fun _ => ⟨rfl, by decide⟩
    · exact fun h => absurd h (by decide)
    · exact fun h => absurd rfl h
    · exact fun h => absurd rfl h
    · exact fun h => absurd h (by decide)

/-- A handler's step, a zeroing micro-step and an `INIT` that change a counter. -/
theorem witness_EdgeCountHasOneWriter :
    view (step { withLeft { leftB with ip := true } with turns := [.host] }) (fun t => t.left.edgeCount) = some 1 ∧
    view (step { withLeft { leftB with ie := false, edgeCount := 0x0101 } with turns := [.host], seq := .zero .left 0 })
      (fun t => t.left.edgeCount) = some 0x0100 ∧
    view (step { withLeft { leftB with edgeCount := 5 } with turns := [.host], port := [0x010000000000] })
      (fun t => t.left.edgeCount) = some 0 := by decide

theorem witness_ChannelsAreIndependent :
    (Channel.right ≠ .left) ∧ (∃ t, step (atTurn (.timer .left)) = .next t) ∧
    ({ withLeft { leftB with ip := true } with turns := [.host] } : State).dueHandler .host = some .left ∧
    (Instr.move .left 3).target = some .left ∧ (∃ t, exec (.move .left 3) readyB = .next t) ∧
    (∃ t, hostTurn { readyB with seq := .snap .left 0 } = .next t) ∧
    ∃ t, hostTurn { readyB with seq := .burst .left 1 .low } = .next t :=
  ⟨by decide, ⟨_, rfl⟩, rfl, rfl, ⟨_, rfl⟩, ⟨_, rfl⟩, _, rfl⟩

/-- One toggle on a running channel, counted by the handler after it: a run of two steps. -/
theorem witness_TogglesAreCounted :
    let s : State := { withLeft { leftB with cs := 1 } with turns := [.timer .left, .host] }
    ∃ t, Reaches (fun u => u.nextTurn ≠ .reset ∧ ¬ u.zeroingNext .left) s t ∧ t.left.ovr = false ∧
      t.left.edgeCount = 1 := by
  refine ⟨_, .head ⟨by decide, ?_⟩ rfl (.head ⟨by decide, ?_⟩ rfl (.refl _)), rfl, rfl⟩
  · rintro (⟨i, _, h⟩ | ⟨_, w, rest, h, _⟩)
    · cases h
    · cases h
  · rintro (⟨i, _, h⟩ | ⟨_, w, rest, h, _⟩)
    · cases h
    · cases h

/-- A command that enables and one that starts; a step that is neither. -/
theorem witness_OnlyTheirCommandsEnableOrRun :
    view (exec (.enable .left true) readyB) (fun t => t.left.enabled) = some true ∧ readyB.left.enabled = false ∧
    view (exec (.setSpeed .left 600) readyB) (fun t => t.left.cs) = some 3 ∧ readyB.left.cs = 0 ∧
    (atTurn (.timer .left)).nextTurn ≠ .host := by decide

theorem witness_RestartReproducesTheSpeed :
    readyB.Ready ∧ mapSpeed readyB.config .left 600 ≠ .invalidSpeed ∧
    ∃ a b t u, exec (.setSpeed .left 600) readyB = .next a ∧ exec .stopAll a = .next b ∧
      exec (.start .left) b = .next t ∧ exec (.setSpeed .left 600) b = .next u :=
  ⟨by decide, by decide, _, _, _, _, rfl, rfl, rfl, rfl⟩

theorem witness_PinsAreFunctionsOfState :
    State.reset.inited = false ∧ readyB.inited = true ∧ readyB.left.direction = .forward ∧
    ({ leftB with direction := .reverse } : Chan 8).direction = .reverse ∧ readyB.left.enabled = false ∧
    ({ leftB with enabled := true } : Chan 8).enabled = true := by decide

theorem witness_ParametersNeverChange : ∃ t, step (atTurn .host) = .next t := ⟨_, rfl⟩

end Sys2Proof.Tests
end

section
/-! PROOFS. The command in progress as a function of `seq` alone (10_state.md R37, 30_encoding.md R72,
45_facade.md R162): what accepting a command makes of it, and what each further micro-step does. -/

namespace Sys2Proof.Machine

/-- The sequencer right after a ready block has accepted the command (30_encoding.md R72). -/
def acceptedSeq : Instr → Seq
  | .getStepCount c => .snap c 0
  | .resetCounts => .zero .left 0
  | .move c steps => if magnitude steps = 0 then .idle else .burst c (magnitude steps) .high
  | .init | .enable _ _ | .setDir _ _ | .setSpeed _ _ | .setSpeedBoth _ _ | .stopAll | .program _ _ _
  | .start _ | .stop _ | .mapSpeed _ _ | .evtEnable _ _ => .idle

/-- The sequencer after one further micro-step. -/
def Seq.next : Seq → Seq
  | .idle => .idle
  | .snap c i => if i.val < 4 then .snap c (i + 1) else .idle
  | .zero .left i => if i.val < 4 then .zero .left (i + 1) else .zero .right 0
  | .zero .right i => if i.val < 4 then .zero .right (i + 1) else .idle
  | .burst c n .high => .burst c n .low
  | .burst c n .low => if 1 < n then .burst c (n - 1) .high else .idle

/-- A burst in progress has a cycle still to produce (10_state.md R37). -/
def Seq.BurstPositive : Seq → Prop
  | .burst _ n _ => 1 ≤ n
  | .idle | .snap _ _ | .zero _ _ => True

theorem exec_seq {i : Instr} {s t : State} (hr : s.Ready) (h : exec i s = .next t) :
    t.seq = acceptedSeq i := by
  cases i with
  | init =>
    obtain ⟨hs, hf, _⟩ := hr
    rw [exec, execInit, initIfReady_ready hs hf] at h
    cases h
    rfl
  | move c steps =>
    rw [exec, execMove, ifReady_ready hr] at h
    cases h
    dsimp only [acceptedSeq]
    split_ifs <;> rfl
  | program c top ps =>
    rw [exec, execProgram, ifReady_ready hr] at h
    cases h
    split_ifs <;> rfl
  | mapSpeed c rpm =>
    rw [exec, execMapSpeed, ifReady_ready hr] at h
    cases h
    split <;> rfl
  | _ =>
    simp only [exec, execEnable, execSetDir, execSetSpeed, execSetSpeedBoth, execStopAll, execResetCounts,
      execGetStepCount, execStart, execStop, execEvtEnable, ifReady_ready hr] at h
    cases h
    rfl

theorem rejectWord_seq (e : Reject) {s : State} (h : s.seq = .idle) : (s.rejectWord e).seq = .idle := by
  by_cases hf : s.fault = 0
  · rw [rejectWord_raises e h hf]
    rfl
  · rw [rejectWord_faulted e h hf]
    rfl

/-- Executing a command at a ready port leaves it ready, or as accepting the command does. -/
theorem exec_seq_cases {i : Instr} {s t : State} (hs : s.seq = .idle) (h : exec i s = .next t) :
    t.seq = .idle ∨ t.seq = acceptedSeq i := by
  rcases exec_cases h with ⟨hb, _⟩ | ⟨_, _, rfl⟩ | ⟨_, _, _, _, rfl⟩ | ⟨_, hf, rfl⟩ | hr
  · exact absurd hs hb
  · exact .inl rfl
  · exact .inl rfl
  · rw [exec, execInit, initIfReady_ready hs hf] at h
    cases h
    exact .inl rfl
  · exact .inr (exec_seq hr h)

/-- A further micro-step moves the sequencer by a fixed function of it (45_facade.md R162). -/
theorem continueCommand_seq (s : State) : s.continueCommand.seq = s.seq.next := by
  unfold State.continueCommand
  split
  case h_1 h => rw [h]; rfl
  case h_2 c i h =>
    rw [h]
    unfold State.snapStep
    dsimp only [Seq.next]
    split_ifs <;> rfl
  case h_3 c i h =>
    rw [h]
    unfold State.zeroStep
    cases c <;> dsimp only [Seq.next] <;> split_ifs <;> rfl
  case h_4 c n phase h =>
    rw [h]
    unfold State.burstStep
    cases phase <;> dsimp only [Seq.next]
    split_ifs <;> rfl

theorem burstPositive_acceptedSeq (i : Instr) : (acceptedSeq i).BurstPositive := by
  cases i with
  | move c steps =>
    dsimp only [acceptedSeq]
    split_ifs with h
    · trivial
    · exact Nat.one_le_iff_ne_zero.2 h
  | _ => trivial

theorem burstPositive_next {q : Seq} (h : q.BurstPositive) : q.next.BurstPositive := by
  cases q with
  | idle => trivial
  | snap c i => dsimp only [Seq.next]; split_ifs <;> trivial
  | zero c i => cases c <;> dsimp only [Seq.next] <;> split_ifs <;> trivial
  | burst c n phase =>
    cases phase with
    | high => exact h
    | low =>
      dsimp only [Seq.next]
      split_ifs with hn
      · exact Nat.le_sub_one_of_lt hn
      · trivial

/-- Each further micro-step leaves one less (30_encoding.md R72). -/
theorem microStepsLeft_next {q : Seq} (h : q.BurstPositive) (hq : q ≠ .idle) :
    q.next.microStepsLeft + 1 = q.microStepsLeft := by
  cases q with
  | idle => exact absurd rfl hq
  | snap c i =>
    dsimp only [Seq.next]
    split_ifs with hi
    · simp only [Seq.microStepsLeft, val_succ_of_lt hi]; omega
    · simp only [Seq.microStepsLeft]; omega
  | zero c i =>
    cases c <;> dsimp only [Seq.next] <;> split_ifs with hi
    · simp only [Seq.microStepsLeft, val_succ_of_lt hi]; omega
    · simp only [Seq.microStepsLeft, Fin.val_zero]; omega
    · simp only [Seq.microStepsLeft, val_succ_of_lt hi]; omega
    · simp only [Seq.microStepsLeft]; omega
  | burst c n phase =>
    have hn : 1 ≤ n := h
    cases phase with
    | high => simp only [Seq.next, Seq.microStepsLeft]; omega
    | low =>
      dsimp only [Seq.next]
      split_ifs with h1 <;> simp only [Seq.microStepsLeft] <;> omega

/-! Which step moves the sequencer while a command is in progress. -/

@[simp] theorem takeEdgeEvent_seq (s : State) (c : Channel) : (s.takeEdgeEvent c).seq = s.seq := by
  cases c <;> rfl

@[simp] theorem tick_seq (s : State) (c : Channel) : (s.tick c).seq = s.seq := by
  unfold State.tick
  split_ifs <;> simp

@[simp] theorem timerTurn_seq (s : State) (c : Channel) : (s.timerTurn c).seq = s.seq := by
  unfold State.timerTurn
  split_ifs
  · rfl
  · exact tick_seq s c

/-- A command in progress is abandoned by hardware reset, moved on by the host's turn, and left alone by every other
step (30_encoding.md R72, 60_exceptions.md R139). -/
theorem step_seq_inProgress {s t : State} (hs : s.seq ≠ .idle) (h : step s = .next t) :
    (s.nextTurn = .reset ∧ t.seq = .idle) ∨
    (s.nextTurn = .host ∧ s.NoHandlerDue ∧ t.seq = s.seq.next) ∨
    (¬ (s.nextTurn = .host ∧ s.NoHandlerDue) ∧ t.seq = s.seq) := by
  rcases step_cases h with ⟨ht, rfl⟩ | ⟨_, c, hc, rfl⟩ | ⟨ht, hn, hh⟩ | ⟨c, ht, _, rfl⟩ | ⟨c, ht, _, rfl⟩
  · exact .inl ⟨ht, rfl⟩
  · refine .inr (.inr ⟨fun hn => ?_, by rw [takeEdgeEvent_seq, afterHandler_seq]⟩)
    rw [dueHandler_none.2 hn.2] at hc
    cases hc
  · rw [hostTurn_inProgress (by rwa [endTurn_seq])] at hh
    cases hh
    exact .inr (.inl ⟨ht, hn, by rw [continueCommand_seq, endTurn_seq]⟩)
  · exact .inr (.inr ⟨by simp [ht], by rw [timerTurn_seq, endTurn_seq]⟩)
  · exact .inr (.inr ⟨by simp [ht], endTurn_seq s⟩)

end Sys2Proof.Machine
end

section
/-! PROOFS. Enabled handlers go first (00_scope.md R12(a), 60_exceptions.md R127, R128). -/

namespace Sys2Proof.Machine

/-- At an enabled handler's own turn it is that handler that goes, if both are enabled too. -/
theorem dueHandler_handler {s : State} {d : Channel} (hp : (s.chan d).ip = true) (he : (s.chan d).ie = true) :
    s.dueHandler (.handler d) = some d := by
  have hd : (s.chan d).eventDue = true := by simp [Chan.eventDue, hp, he]
  unfold State.dueHandler
  cases d with
  | left => rw [show s.left.eventDue = true from hd]; cases s.right.eventDue <;> rfl
  | right => rw [show s.right.eventDue = true from hd]; cases s.left.eventDue <;> rfl

/-- A handler that goes first at another agent's turn leaves that turn to come. -/
theorem afterHandler_turns {s : State} {t : Turn} {c : Channel} (h : t ≠ .handler c) :
    (s.afterHandler t c).turns = s.turns := by
  unfold State.afterHandler
  rw [if_neg h]
  split_ifs <;> rfl

/-- Only the schedule tells the state in which the handler runs from the state before the step. -/
theorem afterHandler_eq (s : State) (t : Turn) (c : Channel) :
    s.afterHandler t c =
      { s with turns := (s.afterHandler t c).turns, draws := (s.afterHandler t c).draws } := by
  unfold State.afterHandler State.endTurn
  split_ifs
  · split <;> rfl
  · rfl
  · rfl

theorem takeEdgeEvent_withSchedule (s : State) (c : Channel) (turns : List Turn) (draws : Nat) :
    ({ s with turns := turns, draws := draws } : State).takeEdgeEvent c =
      { s.takeEdgeEvent c with turns := turns, draws := draws } := by
  cases c <;> rfl

@[simp] theorem takeEdgeEvent_turns (s : State) (c : Channel) : (s.takeEdgeEvent c).turns = s.turns := by
  cases c <;> rfl

@[simp] theorem takeEdgeEvent_draws (s : State) (c : Channel) : (s.takeEdgeEvent c).draws = s.draws := by
  cases c <;> rfl

/-- Settles O37: the handler that is due takes its event, and the schedule keeps every other agent's turn. -/
theorem enabledHandlersGoFirst : Obligations.EnabledHandlersGoFirst := by
  intro s hreset hdue
  obtain ⟨c, hc⟩ := Option.ne_none_iff_exists'.1 (mt dueHandler_none.1 hdue : s.dueHandler s.nextTurn ≠ none)
  obtain ⟨hip, hie⟩ := dueHandler_some hc
  refine ⟨c, _, step_handler hreset hc, hip, hie, ?_, fun hne => ?_, fun d hd hdp hde => ?_⟩
  · rw [takeEdgeEvent_turns, takeEdgeEvent_draws, ← takeEdgeEvent_withSchedule, ← afterHandler_eq]
  · rw [takeEdgeEvent_turns, afterHandler_turns hne]
  · rw [hd, dueHandler_handler hdp hde] at hc
    exact Option.some.inj hc

end Sys2Proof.Machine
end

section
/-! PROOFS. The compare match lies at half of `top` (10_state.md R21, R41): every step of every agent keeps it. -/

namespace Sys2Proof.Machine

/-- `cmp = top >> 1` (10_state.md R21). -/
def Chan.CmpHalved {w : Nat} (k : Chan w) : Prop := k.cmp = k.top >>> 1

/-- Both channels have their match at half of `top`. -/
def State.CmpHalved (s : State) : Prop := ∀ c, (s.chan c).CmpHalved

theorem cmpHalved_reset (w : Nat) : (Chan.reset w).CmpHalved := (BitVec.zero_ushiftRight ..).symm

theorem cmpHalved_tick {w : Nat} {k : Chan w} (h : k.CmpHalved) : k.tick.CmpHalved := by
  rw [tick_eq]
  split_ifs <;> exact h

namespace State.CmpHalved

variable {s t : State}

theorem of_chan_eq (h : s.CmpHalved) (e : ∀ c, t.chan c = s.chan c) : t.CmpHalved := by
  intro c
  rw [e]
  exact h c

theorem setChan {c : Channel} {k : Chan (width c)} (h : s.CmpHalved) (hk : k.CmpHalved) :
    (s.setChan c k).CmpHalved := by
  intro d
  by_cases e : d = c
  · subst e
    rwa [chan_setChan_self]
  · rw [chan_setChan_ne s e]
    exact h d

/-- A write to a channel's other elements. -/
theorem writeOther {c : Channel} {k : Chan (width c)} (h : s.CmpHalved)
    (hcmp : k.cmp = (s.chan c).cmp := by rfl) (htop : k.top = (s.chan c).top := by rfl) :
    (s.setChan c k).CmpHalved := by
  refine h.setChan ?_
  rw [Chan.CmpHalved, hcmp, htop]
  exact h c

theorem emit (h : s.CmpHalved) (e : Event) : (s.emit e).CmpHalved := h.of_chan_eq (emit_chan s e)

theorem respond (h : s.CmpHalved) (st : Byte) (v : Word) : (s.respond st v).CmpHalved :=
  h.of_chan_eq (respond_chan s st v)

theorem withSeq (h : s.CmpHalved) (q : Seq) : ({ s with seq := q } : State).CmpHalved :=
  h.of_chan_eq fun c => by cases c <;> rfl

theorem endTurn (h : s.CmpHalved) : s.endTurn.CmpHalved := h.of_chan_eq (endTurn_chan s)

theorem writeEnable (h : s.CmpHalved) (c : Channel) (flag : Bool) : (s.writeEnable c flag).CmpHalved :=
  h.writeOther.emit _

theorem writeDirection (h : s.CmpHalved) (c : Channel) (d : Direction) : (s.writeDirection c d).CmpHalved :=
  h.writeOther.emit _

theorem writePulse (h : s.CmpHalved) (c : Channel) (level : Bool) : (s.writePulse c level).CmpHalved :=
  (h.writeOther.emit _).emit _

theorem stopChan (h : s.CmpHalved) (c : Channel) : (s.setChan c (s.chan c).stop).CmpHalved := h.writeOther

theorem enterSection (h : s.CmpHalved) (c : Channel) : (s.enterSection c).CmpHalved :=
  (h.writeOther (c := c) (k := { s.chan c with ie := false })).of_chan_eq fun d => by cases d <;> rfl

theorem exitSection (h : s.CmpHalved) (c : Channel) : (s.exitSection c).CmpHalved := h.writeOther

theorem takeEdgeEvent (h : s.CmpHalved) (c : Channel) : (s.takeEdgeEvent c).CmpHalved := h.writeOther.emit _

theorem applySpeed (h : s.CmpHalved) (c : Channel) (rpm : Nat) : (s.applySpeed c rpm).1.CmpHalved := by
  unfold State.applySpeed
  split
  · exact h
  · exact h.setChan rfl

theorem timerTurn (h : s.CmpHalved) (c : Channel) : (s.timerTurn c).CmpHalved := by
  intro d
  by_cases e : c = d
  · subst e
    unfold State.timerTurn
    split_ifs
    · exact h c
    · rw [tick_chan, if_pos rfl]
      exact cmpHalved_tick (h c)
  · rw [timerTurn_chan_ne s e]
    exact h d

theorem continueCommand (h : s.CmpHalved) : s.continueCommand.CmpHalved := by
  unfold State.continueCommand
  split
  · exact h
  · next c i _ =>
    unfold State.snapStep
    split_ifs
    · exact h.of_chan_eq fun d => by cases d <;> rfl
    · exact (h.exitSection c).respond _ _
  · next c i _ =>
    unfold State.zeroStep
    split_ifs
    · exact h.writeOther.withSeq _
    · cases c with
      | left => exact ((h.exitSection .left).enterSection .right).withSeq _
      | right => exact (h.exitSection .right).respond _ _
  · next c n phase _ =>
    unfold State.burstStep
    cases phase with
    | high => exact (h.writePulse c true).withSeq _
    | low =>
      dsimp only
      split_ifs
      · exact (h.writePulse c false).withSeq _
      · exact (h.writePulse c false).respond _ _

end State.CmpHalved

/-- `INIT` leaves both channels as they are, where it is not accepted, or resets them. -/
theorem exec_init_chan {s t : State} (h : exec .init s = .next t) :
    (∀ c, t.chan c = s.chan c) ∨ ∀ c, t.chan c = Chan.initialised (width c) := by
  injection h with h
  subst h
  rcases initIfReady_cases s fun s =>
      { s with left := Chan.initialised 8, right := Chan.initialised 16, inited := true }.respond
        Status.ok.code 0 with ⟨_, e⟩ | ⟨_, _, e⟩ | ⟨_, _, e⟩ <;> rw [e]
  · exact .inl fun c => rfl
  · exact .inl fun c => respond_chan s _ _ c
  · exact .inr fun c => by cases c <;> rfl

theorem exec_ready_cmpHalved {i : Instr} {s t : State} (hr : s.Ready) (h : s.CmpHalved) (hi : i ≠ .init)
    (he : exec i s = .next t) : t.CmpHalved := by
  cases i <;>
    simp only [exec, execEnable, execSetDir, execSetSpeed, execSetSpeedBoth, execMove, execStopAll, execResetCounts,
      execGetStepCount, execProgram, execStart, execStop, execMapSpeed, execEvtEnable, ifReady_ready hr,
      Host.Outcome.next.injEq] at he
  case init => exact absurd rfl hi
  all_goals subst he
  case enable c flag => exact (h.writeEnable c flag).respond _ _
  case setDir c forward => exact (h.writeDirection c _).respond _ _
  case setSpeed c rpm => exact (h.applySpeed c rpm).respond _ _
  case setSpeedBoth l r => exact ((h.applySpeed .left l).applySpeed .right r).respond _ _
  case move c steps =>
    have hw := (h.writeEnable c true).writeDirection c (directionOfSteps steps)
    split_ifs
    · exact hw.respond _ _
    · exact hw.withSeq _
  case stopAll =>
    exact ((((h.writeEnable .left false).writeEnable .right false).stopChan .left).stopChan .right).respond _ _
  case resetCounts => exact (h.enterSection .left).withSeq _
  case getStepCount c => exact (h.enterSection c).withSeq _
  case program c top ps =>
    split_ifs
    · exact h.of_chan_eq fun d => by cases d <;> rfl
    · exact State.CmpHalved.respond (h.setChan (by rfl)) _ _
  case start c => exact h.writeOther.respond _ _
  case stop c => exact (h.stopChan c).respond _ _
  case mapSpeed c rpm => split <;> exact h.respond _ _
  case evtEnable c flag => exact h.writeOther.respond _ _

/-- Executing a command keeps it; where one writes `top`, it writes `cmp` with it (41_pulse_channel.md R82). -/
theorem exec_cmpHalved {i : Instr} {s t : State} (h : s.CmpHalved) (he : exec i s = .next t) : t.CmpHalved := by
  by_cases hi : i = .init
  · subst hi
    rcases exec_init_chan he with e | e
    · exact h.of_chan_eq e
    · intro c
      rw [e]
      exact cmpHalved_reset _
  · rcases exec_cases he with ⟨_, rfl⟩ | ⟨_, _, rfl⟩ | ⟨_, _, _, _, rfl⟩ | ⟨_, _, e⟩ | hr
    · exact h
    · exact h.of_chan_eq fun c => by cases c <;> rfl
    · exact h.of_chan_eq fun c => by cases c <;> rfl
    · exact absurd e hi
    · exact exec_ready_cmpHalved hr h hi he

end Sys2Proof.Machine
end

section
/-! PROOFS. The invariant on which progress rests, along every endless run (10_state.md R41, 00_scope.md R12). -/

namespace Sys2Proof.Machine

/-- A presented word is a command that executes, or it is rejected (30_encoding.md R64). -/
theorem present_cases {w : Command} {s t : State} (h : present w s = .next t) :
    (∃ i, decode w = .ok i ∧ exec i s = .next t) ∨ ∃ e, decode w = .error e ∧ t = s.rejectWord e := by
  cases hd : decode w with
  | ok i =>
    rw [present_of_decode_ok hd] at h
    exact .inl ⟨i, rfl, h⟩
  | error e =>
    rw [present_of_decode_error hd] at h
    cases h
    exact .inr ⟨e, rfl, rfl⟩

/-- The part of the block's invariant (10_state.md R41) on which progress rests. -/
structure State.ProgressInv (s : State) : Prop where
  halved : s.CmpHalved
  positive : s.seq.BurstPositive

theorem BlockInv.progressInv {s : State} (h : BlockInv s) : s.ProgressInv := by
  obtain ⟨_, _, _, hl, hr, hs⟩ := h
  constructor
  · intro c
    cases c with
    | left => exact hl.1
    | right => exact hr.1
  · unfold SeqInv at hs
    cases hq : s.seq with
    | burst c n phase =>
      rw [hq] at hs
      obtain ⟨_, _, _, hn, _⟩ := hs
      exact hn
    | _ => trivial

theorem present_progressInv {w : Command} {s t : State} (hs : s.seq = .idle) (h : s.CmpHalved)
    (hp : present w s = .next t) : t.ProgressInv := by
  rcases present_cases hp with ⟨i, _, he⟩ | ⟨e, _, rfl⟩
  · refine ⟨exec_cmpHalved h he, ?_⟩
    rcases exec_seq_cases hs he with e | e <;> rw [e]
    · trivial
    · exact burstPositive_acceptedSeq i
  · refine ⟨h.of_chan_eq (rejectWord_chan s e), ?_⟩
    rw [rejectWord_seq e hs]
    trivial

theorem hostTurn_progressInv {s t : State} (h : s.ProgressInv) (ht : hostTurn s = .next t) : t.ProgressInv := by
  obtain ⟨hc, hq⟩ := h
  rcases hostTurn_cases ht with ⟨_, _, rfl⟩ | ⟨hs, w, rest, _, hp⟩ | ⟨_, rfl⟩
  · exact ⟨hc, hq⟩
  · exact present_progressInv (s := { s with port := rest }) hs (hc.of_chan_eq fun c => by cases c <;> rfl) hp
  · refine ⟨hc.continueCommand, ?_⟩
    rw [continueCommand_seq]
    exact burstPositive_next hq

theorem step_progressInv {s t : State} (h : s.ProgressInv) (hs : step s = .next t) : t.ProgressInv := by
  obtain ⟨hc, hq⟩ := h
  rcases step_cases hs with ⟨_, rfl⟩ | ⟨_, c, _, rfl⟩ | ⟨_, _, hh⟩ | ⟨c, _, _, rfl⟩ | ⟨c, _, _, rfl⟩
  · exact ⟨fun c => by cases c <;> exact cmpHalved_reset _, trivial⟩
  · refine ⟨(hc.of_chan_eq (afterHandler_chan s _ c)).takeEdgeEvent c, ?_⟩
    rwa [takeEdgeEvent_seq, afterHandler_seq]
  · exact hostTurn_progressInv ⟨hc.endTurn, by rwa [endTurn_seq]⟩ hh
  · refine ⟨hc.endTurn.timerTurn c, ?_⟩
    rwa [timerTurn_seq, endTurn_seq]
  · exact ⟨hc.endTurn, by rwa [endTurn_seq]⟩

/-! Endless runs (00_scope.md R12). -/

@[simp] theorem withTurn_chan (s : State) (t : Turn) (c : Channel) : (s.withTurn t).chan c = s.chan c := by
  cases c <;> rfl
@[simp] theorem withTurn_trace (s : State) (t : Turn) : (s.withTurn t).trace = s.trace := rfl

/-- Along an endless run the invariant holds for ever. -/
theorem IsRun.progressInv {sched : Nat → Turn} {r : Nat → State} (h : IsRun sched r) (h0 : (r 0).ProgressInv)
    (n : Nat) : (r n).ProgressInv := by
  induction n with
  | zero => exact h0
  | succ n ih => exact step_progressInv ⟨ih.halved.of_chan_eq (withTurn_chan _ _), ih.positive⟩ (h n)

/-- A natural number that never grows cannot keep falling. -/
theorem not_falls_forever {f : Nat → Nat} {n : Nat} (hle : ∀ m, n ≤ m → f (m + 1) ≤ f m)
    (hlt : ∀ k, n ≤ k → ∃ m, k ≤ m ∧ f (m + 1) < f m) : False := by
  have fall : ∀ v k, n ≤ k → f k ≠ v := by
    intro v
    induction v using Nat.strong_induction_on with
    | _ v ih =>
      intro k hk hv
      obtain ⟨m, hkm, hm⟩ := hlt k hk
      have hmk : f m ≤ f k := Nat.le_induction le_rfl (fun j hj h => (hle j (hk.trans hj)).trans h) m hkm
      exact ih (f (m + 1)) (hv ▸ hm.trans_le hmk) (m + 1) (by omega) rfl
  exact fall _ n le_rfl rfl

end Sys2Proof.Machine
end

section
/-! PROOFS. In a fair run a command in progress ends (00_scope.md R12(c), 30_encoding.md R72, 60_exceptions.md
R139): the number of its micro-steps left falls at each of the host's turns and never grows. -/

namespace Sys2Proof.Machine

/-- One step of a run with a command in progress. -/
theorem IsRun.seq_inProgress {sched : Nat → Turn} {r : Nat → State} (h : IsRun sched r) {m : Nat}
    (hm : (r m).seq ≠ .idle) :
    (sched m = .reset ∧ (r (m + 1)).seq = .idle) ∨
    ((r m).HostNext (sched m) ∧ (r (m + 1)).seq = (r m).seq.next) ∨
    (¬ (r m).HostNext (sched m) ∧ (r (m + 1)).seq = (r m).seq) := by
  rcases step_seq_inProgress (s := (r m).withTurn (sched m)) hm (h m) with h | ⟨ht, hn, hq⟩ | h
  · exact .inl h
  · exact .inr (.inl ⟨⟨ht, hn⟩, hq⟩)
  · exact .inr (.inr h)

/-- Where the command does not end, the host's step takes one of its micro-steps and no other step takes any. -/
theorem IsRun.microStepsLeft {sched : Nat → Turn} {r : Nat → State} (h : IsRun sched r) {m : Nat}
    (hinv : (r m).ProgressInv) (hm : (r m).seq ≠ .idle) (hm' : (r (m + 1)).seq ≠ .idle) :
    ((r m).HostNext (sched m) ∧ (r (m + 1)).seq.microStepsLeft + 1 = (r m).seq.microStepsLeft) ∨
    (¬ (r m).HostNext (sched m) ∧ (r (m + 1)).seq.microStepsLeft = (r m).seq.microStepsLeft) := by
  rcases h.seq_inProgress hm with ⟨_, hq⟩ | ⟨hhost, hq⟩ | ⟨hnot, hq⟩
  · exact absurd hq hm'
  · exact .inl ⟨hhost, hq ▸ microStepsLeft_next hinv.positive hm⟩
  · exact .inr ⟨hnot, by rw [hq]⟩

/-- In a fair run the port becomes ready again. -/
theorem exists_idle_of_fair {sched : Nat → Turn} {r : Nat → State} (hrun : IsRun sched r) (hfair : FairRun sched r)
    (hinv : ∀ m, (r m).ProgressInv) (n : Nat) : ∃ m, n ≤ m ∧ (r m).seq = .idle := by
  by_contra hnone
  have busy : ∀ m, n ≤ m → (r m).seq ≠ .idle := fun m hm e => hnone ⟨m, hm, e⟩
  have left := fun m (hm : n ≤ m) => hrun.microStepsLeft (hinv m) (busy m hm) (busy (m + 1) (by omega))
  refine not_falls_forever (f := fun m => (r m).seq.microStepsLeft) (n := n) (fun m hm => ?_) (fun k hk => ?_)
  · rcases left m hm with ⟨_, h⟩ | ⟨_, h⟩ <;> omega
  · obtain ⟨_, hhosts⟩ := hfair
    obtain ⟨m, hkm, hhost⟩ := hhosts k fun m hm => busy m (hk.trans hm)
    rcases left m (hk.trans hkm) with ⟨_, h⟩ | ⟨hnot, _⟩
    · exact ⟨m, hkm, by omega⟩
    · exact absurd hhost hnot

/-- Settles O49: the first point at which the port is ready again comes after hardware reset or after the last
micro-step. -/
theorem commandsEndUnderFairness : Obligations.CommandsEndUnderFairness := by
  intro sched r hrun hfair h0 n hn
  have hinv := hrun.progressInv h0.progressInv
  have hex := exists_idle_of_fair hrun hfair hinv n
  obtain ⟨hle, hidle⟩ := Nat.find_spec hex
  have hmin : ∀ k, n ≤ k → k < Nat.find hex → (r k).seq ≠ .idle := fun k hk hlt e => Nat.find_min hex hlt ⟨hk, e⟩
  have hne : Nat.find hex ≠ n := fun e => hn (e ▸ hidle)
  obtain ⟨m, hm⟩ : ∃ m, Nat.find hex = m + 1 := Nat.exists_eq_succ_of_ne_zero (by omega)
  rw [hm] at hle hidle hmin hne
  have hbusy := hmin m (by omega) (by omega)
  refine ⟨m, by omega, fun k hk hkm => hmin k hk (by omega), hidle, ?_⟩
  rcases hrun.seq_inProgress hbusy with ⟨ht, _⟩ | ⟨hhost, hq⟩ | ⟨_, hq⟩
  · exact .inl ht
  · have hleft := microStepsLeft_next (hinv m).positive hbusy
    rw [← hq, hidle] at hleft
    exact .inr ⟨hhost, hleft.symm⟩
  · exact absurd (hq ▸ hidle) hbusy

end Sys2Proof.Machine
end

section
/-! PROOFS. In a fair run a timer that keeps running at one target toggles again (00_scope.md R12(c),
41_pulse_channel.md R88): the number of ticks until its counter meets `cmp` falls at each tick and never grows. -/

namespace Sys2Proof.Machine

/-- How many ticks away the match at `cmp` is: up to `cmp`, or first over the match at `top` and back to 0, or, from
above `top`, first over the end of the counter's range. -/
def Chan.ticksToMatch {w : Nat} (k : Chan w) : Nat :=
  if k.cnt.toNat ≤ k.cmp.toNat then k.cmp.toNat - k.cnt.toNat
  else if k.cnt.toNat ≤ k.top.toNat then k.top.toNat - k.cnt.toNat + 1 + k.cmp.toNat
  else 2 ^ w - k.cnt.toNat + k.cmp.toNat

theorem nextCnt_toNat {w : Nat} (k : Chan w) :
    k.nextCnt.toNat =
      if k.cnt.toNat = k.top.toNat ∨ k.cnt.toNat + 1 = 2 ^ w then 0 else k.cnt.toNat + 1 := by
  have hlt := k.cnt.isLt
  unfold Chan.nextCnt
  by_cases htop : k.cnt = k.top
  · simp [htop]
  · rw [if_neg htop, add_one_eq_ofNat, BitVec.toNat_ofNat]
    have hne : k.cnt.toNat ≠ k.top.toNat := fun e => htop (BitVec.eq_of_toNat_eq e)
    by_cases hwrap : k.cnt.toNat + 1 = 2 ^ w
    · rw [if_pos (.inr hwrap), hwrap, Nat.mod_self]
    · rw [if_neg (by omega), Nat.mod_eq_of_lt (by omega)]

theorem cmp_le_top {w : Nat} {k : Chan w} (h : k.CmpHalved) : k.cmp.toNat ≤ k.top.toNat := by
  rw [h, BitVec.toNat_ushiftRight]
  exact Nat.shiftRight_le _ _

/-- A tick away from the match brings the match nearer by one. -/
theorem ticksToMatch_tick {w : Nat} {k : Chan w} (h : k.CmpHalved) (hne : k.cnt ≠ k.cmp) :
    k.tick.ticksToMatch + 1 = k.ticksToMatch := by
  have hle := cmp_le_top h
  have htop := k.top.isLt
  have hcnt := k.cnt.isLt
  have hne' : k.cnt.toNat ≠ k.cmp.toNat := fun e => hne (BitVec.eq_of_toNat_eq e)
  rw [tick_eq, if_neg hne]
  simp only [Chan.ticksToMatch, nextCnt_toNat]
  split_ifs <;> omega

/-- A command leaves a channel's counter alone, or it is `INIT` and stops the channel. -/
theorem exec_cnt {i : Instr} {s t : State} (h : exec i s = .next t) (c : Channel) :
    (t.chan c).cnt = (s.chan c).cnt ∨ (t.chan c).cs = 0 := by
  by_cases hi : i = .init
  · subst hi
    rcases exec_init_chan h with e | e <;> rw [e c]
    · exact .inl rfl
    · exact .inr rfl
  · obtain ⟨_, _, _, hcnt⟩ := exec_chan_events h hi c
    exact .inl hcnt

theorem present_cnt {w : Command} {s t : State} (h : present w s = .next t) (c : Channel) :
    (t.chan c).cnt = (s.chan c).cnt ∨ (t.chan c).cs = 0 := by
  rcases present_cases h with ⟨i, _, he⟩ | ⟨e, _, rfl⟩
  · exact exec_cnt he c
  · exact .inl (by rw [rejectWord_chan])

theorem hostTurn_cnt {s t : State} (h : hostTurn s = .next t) (c : Channel) :
    (t.chan c).cnt = (s.chan c).cnt ∨ (t.chan c).cs = 0 := by
  rcases hostTurn_cases h with ⟨_, _, rfl⟩ | ⟨_, w, rest, _, hp⟩ | ⟨_, rfl⟩
  · exact .inl rfl
  · have keep : ({ s with port := rest } : State).chan c = s.chan c := by cases c <;> rfl
    rw [← keep]
    exact present_cnt hp c
  · obtain ⟨_, _, _, _, _, hcnt, _⟩ := continueCommand_chan s c
    exact .inl hcnt

/-- While a channel runs, only the timer's own step moves its counter. -/
theorem step_cnt {s t : State} {c : Channel} (h : step s = .next t) (hrun : t.Running c) :
    (s.nextTurn = .timer c ∧ s.NoHandlerDue ∧ t = s.endTurn.timerTurn c) ∨ (t.chan c).cnt = (s.chan c).cnt := by
  rcases step_cases h with ⟨_, rfl⟩ | ⟨_, d, _, rfl⟩ | ⟨_, _, hh⟩ | ⟨d, ht, hn, rfl⟩ | ⟨d, _, _, rfl⟩
  · refine absurd ?_ hrun
    cases c <;> rfl
  · right
    rw [takeEdgeEvent_chan, afterHandler_chan]
    split_ifs <;> rfl
  · rcases hostTurn_cnt hh c with e | e
    · exact .inr (by rw [e, endTurn_chan])
    · exact absurd e hrun
  · by_cases e : d = c
    · subst e
      exact .inl ⟨ht, hn, rfl⟩
    · exact .inr (by rw [timerTurn_chan_ne _ e, endTurn_chan])
  · exact .inr (by rw [endTurn_chan])

theorem timerTurn_running {s : State} {c : Channel} (h : s.Running c) : s.timerTurn c = s.tick c := if_neg h

/-- The tick that meets `cmp` complements the pulse and is traced (41_pulse_channel.md R88). -/
theorem tick_toggles {s : State} {c : Channel} (h : (s.chan c).cnt = (s.chan c).cmp) :
    ((s.tick c).chan c).pulse = !(s.chan c).pulse ∧
      (s.tick c).trace = s.trace ++ [.toggle c (!(s.chan c).pulse)] := by
  refine ⟨?_, ?_⟩
  · rw [tick_chan, if_pos rfl, tick_eq, if_pos h]
  · rw [State.tick, if_pos h, emit_trace, setChan_trace]

theorem ticksToMatch_congr {w : Nat} {j k : Chan w} (hj : j.CmpHalved) (hk : k.CmpHalved)
    (hcnt : j.cnt = k.cnt) (htop : j.top = k.top) : j.ticksToMatch = k.ticksToMatch := by
  rw [Chan.ticksToMatch, Chan.ticksToMatch, hj, hk, hcnt, htop]

/-- The step of a run at which the timer ticks. -/
theorem IsRun.timerNext {sched : Nat → Turn} {r : Nat → State} {c : Channel} {m : Nat} (h : IsRun sched r)
    (hm : (r m).TimerNext (sched m) c) : r (m + 1) = ((r m).withTurn (sched m)).endTurn.tick c := by
  obtain ⟨ht, hn, hrun⟩ := hm
  have hs := h m
  rw [step_timer (s := (r m).withTurn (sched m)) ht hn] at hs
  rw [← Host.Outcome.next.inj hs, timerTurn_running]
  rwa [State.Running, endTurn_chan, withTurn_chan]

theorem IsRun.timerNext_chan {sched : Nat → Turn} {r : Nat → State} {c : Channel} {m : Nat} (h : IsRun sched r)
    (hm : (r m).TimerNext (sched m) c) : (r (m + 1)).chan c = ((r m).chan c).tick := by
  rw [h.timerNext hm, tick_chan, if_pos rfl, endTurn_chan, withTurn_chan]

/-- Any other step leaves the counter of a channel that runs before and after it. -/
theorem IsRun.cnt_of_not_timerNext {sched : Nat → Turn} {r : Nat → State} {c : Channel} {m : Nat} (h : IsRun sched r)
    (hm : (r m).Running c) (hm' : (r (m + 1)).Running c) (hnot : ¬ (r m).TimerNext (sched m) c) :
    ((r (m + 1)).chan c).cnt = ((r m).chan c).cnt := by
  rcases step_cnt (h m) hm' with ⟨ht, hn, _⟩ | e
  · exact absurd ⟨ht, hn, hm⟩ hnot
  · rw [e, withTurn_chan]

/-- In a fair run in which the timer keeps running at one target, some tick finds the counter at `cmp`. -/
theorem exists_match_of_fair {sched : Nat → Turn} {r : Nat → State} {c : Channel} {n : Nat} (hrun : IsRun sched r)
    (hfair : FairRun sched r) (hinv : ∀ m, (r m).ProgressInv)
    (hkeep : ∀ m, n ≤ m → (r m).Running c ∧ ((r m).chan c).top = ((r n).chan c).top) :
    ∃ m, n ≤ m ∧ (r m).TimerNext (sched m) c ∧ ((r m).chan c).cnt = ((r m).chan c).cmp := by
  by_contra hnone
  have nearer : ∀ m, n ≤ m → (r m).TimerNext (sched m) c →
      ((r (m + 1)).chan c).ticksToMatch + 1 = ((r m).chan c).ticksToMatch := by
    intro m hm ht
    rw [hrun.timerNext_chan ht]
    exact ticksToMatch_tick ((hinv m).halved c) fun e => hnone ⟨m, hm, ht, e⟩
  refine not_falls_forever (f := fun m => ((r m).chan c).ticksToMatch) (n := n) (fun m hm => ?_) (fun k hk => ?_)
  · by_cases ht : (r m).TimerNext (sched m) c
    · have := nearer m hm ht
      omega
    · obtain ⟨hon, htop⟩ := hkeep m hm
      obtain ⟨hon', htop'⟩ := hkeep (m + 1) (by omega)
      exact (ticksToMatch_congr ((hinv (m + 1)).halved c) ((hinv m).halved c)
        (hrun.cnt_of_not_timerNext hon hon' ht) (htop'.trans htop.symm)).le
  · obtain ⟨htimers, _⟩ := hfair
    obtain ⟨m, hkm, ht⟩ := htimers c k fun m hm => (hkeep m (hk.trans hm)).1
    have := nearer m (hk.trans hkm) ht
    exact ⟨m, hkm, by omega⟩

/-- Settles O50: the tick that finds the counter at `cmp` is the one. -/
theorem runningTimersToggleUnderFairness : Obligations.RunningTimersToggleUnderFairness := by
  intro sched r c n hrun hfair h0 hkeep
  obtain ⟨m, hnm, ht, hmatch⟩ :=
    exists_match_of_fair hrun hfair (hrun.progressInv h0.progressInv) hkeep
  have ⟨hpulse, htrace⟩ := tick_toggles (s := ((r m).withTurn (sched m)).endTurn) (c := c)
    (by rwa [endTurn_chan, withTurn_chan])
  rw [← hrun.timerNext ht, endTurn_chan, withTurn_chan] at hpulse htrace
  exact ⟨m, hnm, ht, hpulse, by rwa [endTurn_trace, withTurn_trace] at htrace⟩

end Sys2Proof.Machine
end

section
/-! PROOFS. What an accepted command makes of a channel, and what the host's steps make of the block around the
channels (30_encoding.md R60, R64, R72). -/

namespace Sys2Proof.Machine

/-- The channel `c` right after a ready block has accepted the command, from the channel before it. -/
def acceptedChan (p : Config.Params) (c : Channel) (k : Chan (width c)) : Instr → Chan (width c)
  | .init => Chan.initialised (width c)
  | .enable d flag => if d = c then { k with enabled := flag } else k
  | .setDir d forward => if d = c then { k with direction := directionOfForward forward } else k
  | .setSpeed d rpm => if d = c then speedChan (mapSpeed p c rpm) k else k
  | .setSpeedBoth rpmL rpmR => speedChan (mapSpeed p c (match c with | .left => rpmL | .right => rpmR)) k
  | .move d steps => if d = c then { k with enabled := true, direction := directionOfSteps steps } else k
  | .stopAll => { k with enabled := false, cs := 0 }
  | .resetCounts => if c = .left then { k with ie := false } else k
  | .getStepCount d => if d = c then { k with ie := false } else k
  | .program d top ps =>
    if d = c ∧ ¬ (ps = 0 ∨ p.divisor c ps = none) then k.program (clampTop c top).1 ps else k
  | .start d => if d = c then k.start else k
  | .stop d => if d = c then k.stop else k
  | .mapSpeed _ _ => k
  | .evtEnable d flag => if d = c then { k with ie := flag } else k

/-- `INIT` at a ready port, whether or not `INIT` came before (45_facade.md R113). -/
theorem exec_init_accepted {s : State} (hs : s.seq = .idle) (hf : s.fault = 0) :
    exec .init s = .next ({ s with left := Chan.initialised 8, right := Chan.initialised 16, inited := true }.respond
      Status.ok.code 0) := by
  rw [exec, execInit, initIfReady_ready hs hf]

/-- An accepted command acts on each channel for itself. -/
theorem exec_chan {i : Instr} {s t : State} (hr : s.Ready) (h : exec i s = .next t) (c : Channel) :
    t.chan c = acceptedChan s.config c (s.chan c) i := by
  cases i with
  | init =>
    obtain ⟨hs, hf, _⟩ := hr
    rw [exec_init_accepted hs hf] at h
    cases h
    cases c <;> rfl
  | setSpeed d rpm =>
    rw [exec, execSetSpeed, ifReady_ready hr] at h
    cases h
    rw [respond_chan, applySpeed_fst]
    cases d <;> cases c <;> rfl
  | setSpeedBoth rpmL rpmR =>
    rw [exec, execSetSpeedBoth, ifReady_ready hr] at h
    cases h
    simp only [respond_chan, applySpeed_fst, setChan_config]
    cases c <;> rfl
  | move d steps =>
    rw [exec, execMove, ifReady_ready hr] at h
    cases h
    dsimp only
    split_ifs <;> cases d <;> cases c <;> rfl
  | program d top ps =>
    rw [exec, execProgram, ifReady_ready hr] at h
    cases h
    dsimp only [acceptedChan]
    by_cases hp : ps = 0 ∨ s.config.divisor d ps = none
    · rw [if_pos hp, if_neg]
      · cases c <;> rfl
      · rintro ⟨rfl, hn⟩
        exact hn hp
    · rw [if_neg hp, respond_chan]
      by_cases e : d = c
      · subst e
        rw [if_pos ⟨rfl, hp⟩, chan_setChan_self]
      · rw [if_neg fun h => e h.1, chan_setChan_ne s (Ne.symm e)]
  | mapSpeed d rpm =>
    rw [exec, execMapSpeed, ifReady_ready hr] at h
    cases h
    split <;> cases c <;> rfl
  | stopAll | resetCounts =>
    simp only [exec, execStopAll, execResetCounts, ifReady_ready hr, Host.Outcome.next.injEq] at h
    subst h
    cases c <;> rfl
  | enable d _ | setDir d _ | getStepCount d | start d | stop d | evtEnable d _ =>
    simp only [exec, execEnable, execSetDir, execGetStepCount, execStart, execStop, execEvtEnable, ifReady_ready hr,
      Host.Outcome.next.injEq] at h
    subst h
    cases d <;> cases c <;> rfl

/-- A further micro-step writes of a channel the pulse, the counter and the event enable at most. -/
theorem continueCommand_chan_eq (s : State) (c : Channel) :
    ∃ pulse edgeCount ie, s.continueCommand.chan c =
      { s.chan c with pulse := pulse, edgeCount := edgeCount, ie := ie } := by
  refine ⟨(s.continueCommand.chan c).pulse, (s.continueCommand.chan c).edgeCount, (s.continueCommand.chan c).ie, ?_⟩
  unfold State.continueCommand
  split
  · rfl
  · next d i _ =>
    unfold State.snapStep
    split_ifs <;> cases d <;> cases c <;> rfl
  · next d i _ =>
    unfold State.zeroStep
    split_ifs <;> cases d <;> cases c <;> rfl
  · next d n phase _ =>
    unfold State.burstStep
    cases phase
    · cases d <;> cases c <;> rfl
    · dsimp only
      split_ifs <;> cases d <;> cases c <;> rfl

/-! Around the channels. -/

/-- What holds from `s` to `t` where the host alone has written: the parameters stay, `INIT` is not undone, `fault` and
`status` get codes of 30_encoding.md R60 only, and what is traced is no toggle. -/
structure HostWrites (s t : State) : Prop where
  config : t.config = s.config
  inited : s.inited = true → t.inited = true
  fault : t.fault = s.fault ∨ ∃ r : Raised, t.fault = r.status.code
  status : t.status = s.status ∨ ∃ st : Status, t.status = st.code
  trace : ∃ new, t.trace = s.trace ++ new ∧ ∀ c, toggles c new = 0

namespace HostWrites

variable {s t : State}

theorem refl (s : State) : HostWrites s s :=
  ⟨rfl, id, .inl rfl, .inl rfl, [], (List.append_nil _).symm, fun _ => rfl⟩

/-- A write to the state's other elements. -/
theorem writeOther (h : HostWrites s t) (u : State) (hconfig : u.config = t.config := by simp)
    (hinited : u.inited = t.inited := by simp) (hfault : u.fault = t.fault := by simp)
    (hstatus : u.status = t.status := by simp) (htrace : u.trace = t.trace := by simp) : HostWrites s u :=
  ⟨hconfig.trans h.config, hinited ▸ h.inited, hfault ▸ h.fault, hstatus ▸ h.status, htrace ▸ h.trace⟩

theorem setChan (h : HostWrites s t) (c : Channel) (k : Chan (width c)) : HostWrites s (t.setChan c k) :=
  h.writeOther _

theorem withSeq (h : HostWrites s t) (q : Seq) : HostWrites s { t with seq := q } := h.writeOther _

theorem emit (h : HostWrites s t) {e : Event} (he : ∀ c, e.isToggle c = false) : HostWrites s (t.emit e) := by
  obtain ⟨new, htrace, hnew⟩ := h.trace
  refine ⟨h.config, h.inited, h.fault, h.status, new ++ [e], ?_, fun c => ?_⟩
  · rw [emit_trace, htrace, List.append_assoc]
  · rw [toggles_append, hnew, toggles, List.countP_singleton, he]
    rfl

theorem respond (h : HostWrites s t) (st : Status) (v : Word) : HostWrites s (t.respond st.code v) :=
  ⟨h.config, h.inited, h.fault, .inr ⟨st, rfl⟩, h.trace⟩

theorem raise (h : HostWrites s t) (r : Raised) : HostWrites s (t.raise r) :=
  ⟨h.config, h.inited, .inr ⟨r, rfl⟩, .inr ⟨r.status, rfl⟩, h.trace⟩

theorem initialise (h : HostWrites s t) (l : Chan 8) (r : Chan 16) :
    HostWrites s { t with left := l, right := r, inited := true } :=
  ⟨h.config, fun _ => rfl, h.fault, h.status, h.trace⟩

theorem writeEnable (h : HostWrites s t) (c : Channel) (flag : Bool) : HostWrites s (t.writeEnable c flag) :=
  (h.setChan c _).emit fun _ => rfl

theorem writeDirection (h : HostWrites s t) (c : Channel) (d : Direction) : HostWrites s (t.writeDirection c d) :=
  (h.setChan c _).emit fun _ => rfl

theorem writePulse (h : HostWrites s t) (c : Channel) (level : Bool) : HostWrites s (t.writePulse c level) :=
  ((h.setChan c _).emit fun _ => rfl).emit fun _ => rfl

theorem enterSection (h : HostWrites s t) (c : Channel) : HostWrites s (t.enterSection c) :=
  h.writeOther { t.setChan c { t.chan c with ie := false } with savedIe := (t.chan c).ie }

theorem exitSection (h : HostWrites s t) (c : Channel) : HostWrites s (t.exitSection c) := h.setChan c _

theorem applySpeed (h : HostWrites s t) (c : Channel) (rpm : Nat) : HostWrites s (t.applySpeed c rpm).1 := by
  rw [applySpeed_fst]
  exact h.setChan c _

theorem ifReady {body : State → State} (h : HostWrites s (body s)) : HostWrites s (s.ifReady body) := by
  rcases ifReady_cases s body with ⟨_, e⟩ | ⟨_, _, e⟩ | ⟨_, _, _, e⟩ | ⟨_, e⟩ <;> rw [e]
  · exact refl s
  · exact (refl s).respond .faulted 0
  · exact (refl s).raise .notInitialised
  · exact h

theorem initIfReady {body : State → State} (h : HostWrites s (body s)) : HostWrites s (s.initIfReady body) := by
  rcases initIfReady_cases s body with ⟨_, e⟩ | ⟨_, _, e⟩ | ⟨_, _, e⟩ <;> rw [e]
  · exact refl s
  · exact (refl s).respond .faulted 0
  · exact h

end HostWrites

/-- The worse of two statuses is one of them. -/
theorem maxCode_code (a b : Status) : ∃ st : Status, maxCode a.code b.code = st.code := by
  unfold maxCode
  split_ifs
  · exact ⟨b, rfl⟩
  · exact ⟨a, rfl⟩

theorem exec_hostWrites {i : Instr} {s t : State} (h : exec i s = .next t) : HostWrites s t := by
  have self := HostWrites.refl s
  cases i <;> injection h with h <;> subst h
  case init => exact .initIfReady ((self.initialise _ _).respond .ok 0)
  case enable c flag => exact .ifReady ((self.writeEnable c flag).respond .ok 0)
  case setDir c forward => exact .ifReady ((self.writeDirection c _).respond .ok 0)
  case setSpeed c rpm => exact .ifReady ((self.applySpeed c rpm).respond _ 0)
  case setSpeedBoth rpmL rpmR =>
    refine .ifReady ?_
    dsimp only
    obtain ⟨st, e⟩ := maxCode_code (s.applySpeed .left rpmL).2
      ((s.applySpeed .left rpmL).1.applySpeed .right rpmR).2
    rw [e]
    exact ((self.applySpeed .left rpmL).applySpeed .right rpmR).respond st _
  case move c steps =>
    have hw := (self.writeEnable c true).writeDirection c (directionOfSteps steps)
    refine .ifReady ?_
    dsimp only
    split_ifs
    · exact hw.respond .ok 0
    · exact hw.withSeq _
  case stopAll =>
    exact .ifReady
      (((((self.writeEnable .left false).writeEnable .right false).setChan .left _).setChan .right _).respond .ok 0)
  case resetCounts => exact .ifReady ((self.enterSection .left).withSeq _)
  case getStepCount c => exact .ifReady ((self.enterSection c).withSeq _)
  case program c top ps =>
    refine .ifReady ?_
    split_ifs
    · exact self.raise .illegalCommand
    · exact (self.setChan c _).respond _ 0
  case start c => exact .ifReady ((self.setChan c _).respond .ok 0)
  case stop c => exact .ifReady ((self.setChan c _).respond .ok 0)
  case mapSpeed c rpm =>
    refine .ifReady ?_
    split
    · exact self.respond .invalidSpeed 0
    · exact self.respond _ _
  case evtEnable c flag => exact .ifReady ((self.setChan c _).respond .ok 0)

theorem rejectWord_hostWrites (s : State) (e : Reject) : HostWrites s (s.rejectWord e) := by
  unfold State.rejectWord
  split_ifs
  · exact .refl s
  · exact (HostWrites.refl s).respond .faulted 0
  · exact (HostWrites.refl s).raise _

theorem continueCommand_hostWrites (s : State) : HostWrites s s.continueCommand := by
  have self := HostWrites.refl s
  unfold State.continueCommand
  split
  · exact self
  · next c i _ =>
    unfold State.snapStep
    split_ifs
    · exact self.writeOther _
    · exact (self.exitSection c).respond .ok _
  · next c i _ =>
    unfold State.zeroStep
    split_ifs
    · exact (self.setChan c _).withSeq _
    · cases c with
      | left => exact ((self.exitSection .left).enterSection .right).withSeq _
      | right => exact (self.exitSection .right).respond .ok 0
  · next c n phase _ =>
    unfold State.burstStep
    cases phase with
    | high => exact (self.writePulse c true).withSeq _
    | low =>
      dsimp only
      split_ifs
      · exact (self.writePulse c false).withSeq _
      · exact (self.writePulse c false).respond .ok 0

theorem hostTurn_hostWrites {s t : State} (h : hostTurn s = .next t) : HostWrites s t := by
  rcases hostTurn_cases h with ⟨_, _, rfl⟩ | ⟨_, w, rest, _, hp⟩ | ⟨_, rfl⟩
  · exact .refl _
  · -- Taking the word from the port writes nothing that `HostWrites` speaks of.
    have hw : HostWrites { s with port := rest } t := by
      rcases present_cases hp with ⟨i, _, he⟩ | ⟨e, _, rfl⟩
      · exact exec_hostWrites he
      · exact rejectWord_hostWrites _ e
    exact ⟨hw.config, hw.inited, hw.fault, hw.status, hw.trace⟩
  · exact continueCommand_hostWrites s

end Sys2Proof.Machine
end

section
/-! PROOFS. Over any run without a zeroing and without overrun every toggle is counted or pending (10_state.md R41(f),
41_pulse_channel.md R90). -/

namespace Sys2Proof.Machine

/-- The edges counted so far with the one that is pending (10_state.md R41(f)). -/
def Chan.edgesSeen {w : Nat} (k : Chan w) : Word := k.edgeCount + if k.ip then 1 else 0

/-- From `s` to `t` the edges seen on the channel have grown by the toggles traced. -/
def TogglesSeen (c : Channel) (s t : State) : Prop :=
  ∃ new, t.trace = s.trace ++ new ∧
    (t.chan c).edgesSeen = (s.chan c).edgesSeen + BitVec.ofNat 32 (toggles c new)

theorem TogglesSeen.trans {c : Channel} {s t u : State} (h1 : TogglesSeen c s t) (h2 : TogglesSeen c t u) :
    TogglesSeen c s u := by
  obtain ⟨new1, htr1, hcount1⟩ := h1
  obtain ⟨new2, htr2, hcount2⟩ := h2
  refine ⟨new1 ++ new2, by rw [htr2, htr1, List.append_assoc], ?_⟩
  rw [hcount2, hcount1, toggles_append, BitVec.ofNat_add, BitVec.add_assoc]

/-- Where nothing is traced but other events, and counter and pending bit stay. -/
theorem TogglesSeen.of_none {c : Channel} {s t : State} {new : List Event} (htrace : t.trace = s.trace ++ new)
    (hnew : toggles c new = 0) (hedge : (t.chan c).edgeCount = (s.chan c).edgeCount)
    (hip : (t.chan c).ip = (s.chan c).ip) : TogglesSeen c s t := by
  refine ⟨new, htrace, ?_⟩
  rw [Chan.edgesSeen, hedge, hip, hnew]
  exact (BitVec.add_zero _).symm

/-- Where the trace and the channel stay. -/
theorem TogglesSeen.of_same {c : Channel} {s t : State} (htrace : t.trace = s.trace) (hchan : t.chan c = s.chan c) :
    TogglesSeen c s t :=
  .of_none (new := []) (by rw [htrace, List.append_nil]) rfl (by rw [hchan]) (by rw [hchan])

/-- The host's step, zeroing apart, leaves counter, pending bit and overrun (20_memory.md R48). -/
theorem hostTurn_events {s t : State} {c : Channel} (hz : ¬ s.zeroingNext c) (h : hostTurn s = .next t) :
    (t.chan c).edgeCount = (s.chan c).edgeCount ∧ (t.chan c).ip = (s.chan c).ip ∧
      (t.chan c).ovr = (s.chan c).ovr := by
  rcases hostTurn_cases h with ⟨_, _, rfl⟩ | ⟨hs, w, rest, hport, hp⟩ | ⟨_, rfl⟩
  · exact ⟨rfl, rfl, rfl⟩
  · have keep : ({ s with port := rest } : State).chan c = s.chan c := by cases c <;> rfl
    rw [← keep]
    rcases present_cases hp with ⟨i, hd, he⟩ | ⟨e, _, rfl⟩
    · have hi : i ≠ .init := fun e => hz (.inr ⟨hs, w, rest, hport, e ▸ hd⟩)
      obtain ⟨hedge, hip, hovr, _⟩ := exec_chan_events he hi c
      exact ⟨hedge, hip, hovr⟩
    · rw [rejectWord_chan]
      exact ⟨rfl, rfl, rfl⟩
  · obtain ⟨_, _, hip, hovr, _⟩ := continueCommand_chan s c
    rcases continueCommand_edgeCount s c with hedge | ⟨i, hi, hq, _⟩
    · exact ⟨hedge, hip, hovr⟩
    · exact absurd (.inl ⟨i, hi, hq⟩) hz

theorem tick_trace (s : State) (c : Channel) :
    (s.tick c).trace =
      s.trace ++ if (s.chan c).cnt = (s.chan c).cmp then [.toggle c (!(s.chan c).pulse)] else [] := by
  unfold State.tick
  split_ifs <;> simp

/-- A tick that records no overrun found none, and its toggle is pending after it (41_pulse_channel.md R88). -/
theorem tick_togglesSeen {s : State} {c : Channel} (h : ((s.tick c).chan c).ovr = false) :
    (s.chan c).ovr = false ∧ TogglesSeen c s (s.tick c) := by
  have hchan : (s.tick c).chan c = (s.chan c).tick := by rw [tick_chan, if_pos rfl]
  have htrace := tick_trace s c
  rw [hchan, tick_eq] at h
  by_cases hm : (s.chan c).cnt = (s.chan c).cmp
  · rw [if_pos hm] at h htrace
    obtain ⟨hovr, hip⟩ := Bool.or_eq_false_iff.1 h
    refine ⟨hovr, _, htrace, ?_⟩
    rw [hchan, tick_eq, if_pos hm]
    simp [Chan.edgesSeen, hip, toggles, Event.isToggle]
  · rw [if_neg hm] at h htrace
    refine ⟨h, .of_none htrace rfl ?_ ?_⟩ <;> rw [hchan, tick_eq, if_neg hm]

/-- The other channel's tick is not seen on this one. -/
theorem tick_togglesSeen_other {s : State} {c d : Channel} (h : d ≠ c) : TogglesSeen c s (s.tick d) := by
  have hchan : (s.tick d).chan c = s.chan c := by rw [tick_chan, if_neg h]
  refine .of_none (tick_trace s d) ?_ (by rw [hchan]) (by rw [hchan])
  split_ifs
  · simp [toggles, Event.isToggle, h]
  · rfl

/-- The handler's step moves the pending edge into the counter (42_edge_counter.md R91). -/
theorem takeEdgeEvent_togglesSeen {s : State} {c d : Channel} (hip : (s.chan d).ip = true) :
    TogglesSeen c s (s.takeEdgeEvent d) := by
  refine ⟨_, takeEdgeEvent_trace s d, ?_⟩
  rw [takeEdgeEvent_chan]
  split_ifs with e
  · subst e
    simp [Chan.edgesSeen, hip, toggles, Event.isToggle]
  · simp [toggles, Event.isToggle]

/-- The host's step, zeroing apart, traces no toggle and sees no edge. -/
theorem hostTurn_togglesSeen {s t : State} {c : Channel} (hz : ¬ s.zeroingNext c) (h : hostTurn s = .next t) :
    TogglesSeen c s t := by
  obtain ⟨new, htrace, hnew⟩ := (hostTurn_hostWrites h).trace
  obtain ⟨hedge, hip, _⟩ := hostTurn_events hz h
  exact .of_none htrace (hnew c) hedge hip

/-- The turn of either timer, as far as channel `c` sees it. -/
theorem timerTurn_togglesSeen {s : State} {c d : Channel} (h : ((s.timerTurn d).chan c).ovr = false) :
    (s.chan c).ovr = false ∧ TogglesSeen c s (s.timerTurn d) := by
  unfold State.timerTurn at *
  split_ifs at *
  · exact ⟨h, .of_same rfl rfl⟩
  · by_cases e : d = c
    · subst e
      exact tick_togglesSeen h
    · rw [tick_chan, if_neg e] at h
      exact ⟨h, tick_togglesSeen_other e⟩

/-- One step: where no overrun is recorded after it, none was before it and the toggles are seen. -/
theorem step_togglesSeen {s t : State} {c : Channel} (hreset : s.nextTurn ≠ .reset) (hz : ¬ s.zeroingNext c)
    (h : step s = .next t) (hovr : (t.chan c).ovr = false) : (s.chan c).ovr = false ∧ TogglesSeen c s t := by
  have hend : TogglesSeen c s s.endTurn := .of_same (endTurn_trace s) (endTurn_chan s c)
  rcases step_cases h with ⟨ht, _⟩ | ⟨_, d, hd, rfl⟩ | ⟨_, _, hh⟩ | ⟨d, _, _, rfl⟩ | ⟨d, _, _, rfl⟩
  · exact absurd ht hreset
  · obtain ⟨hip, _⟩ := dueHandler_some hd
    constructor
    · rw [takeEdgeEvent_chan, afterHandler_chan] at hovr
      split_ifs at hovr <;> exact hovr
    · exact (TogglesSeen.of_same (afterHandler_trace s _ d) (afterHandler_chan s _ d c)).trans
        (takeEdgeEvent_togglesSeen (by rwa [afterHandler_chan]))
  · have hz' : ¬ s.endTurn.zeroingNext c := by rwa [State.zeroingNext, endTurn_seq, endTurn_port]
    obtain ⟨_, _, hovr'⟩ := hostTurn_events hz' hh
    rw [hovr', endTurn_chan] at hovr
    exact ⟨hovr, hend.trans (hostTurn_togglesSeen hz' hh)⟩
  · obtain ⟨hovr', hseen⟩ := timerTurn_togglesSeen hovr
    rw [endTurn_chan] at hovr'
    exact ⟨hovr', hend.trans hseen⟩
  · rw [endTurn_chan] at hovr
    exact ⟨hovr, hend⟩

/-- Settles O53, by induction on the run: an overrun once recorded stays, so none is recorded anywhere in it. -/
theorem togglesAreCounted : Obligations.TogglesAreCounted := by
  intro c s t h hovr
  obtain ⟨_, hseen⟩ : (s.chan c).ovr = false ∧ TogglesSeen c s t := by
    induction h with
    | refl s => exact ⟨hovr, .of_same rfl rfl⟩
    | head hok hstep _ ih =>
      obtain ⟨hreset, hz⟩ := hok
      obtain ⟨hovr', hrest⟩ := ih hovr
      obtain ⟨hovr'', hfirst⟩ := step_togglesSeen hreset hz hstep hovr'
      exact ⟨hovr'', hfirst.trans hrest⟩
  exact hseen

end Sys2Proof.Machine
end

section
/-! PROOFS. The block's invariant, channel by channel (10_state.md R41(b), (d)): what each write to a channel's timer
has to meet, and that commands, ticks and handlers do. -/

namespace Sys2Proof.Machine

/-- Every command's operands are in their ranges (30_encoding.md R63). -/
theorem decode_wellFormed {w : Command} {i : Instr} (h : decode w = .ok i) : i.wellFormed = true := by
  obtain ⟨o, _, _, _, rfl⟩ := decode_ok_fields h
  have ha := (aField w).isLt
  have hb := (bField w).isLt
  have hlo := BitVec.le_toInt (aField w)
  have hhi := BitVec.toInt_lt (x := aField w)
  cases o <;> simp [Opcode.assemble, Instr.wellFormed, fitsUnsigned16, fitsSigned16] <;> omega

/-- Well-formed parameters have a divisor for the code that a speed selects (00_scope.md R8, 40_mapper.md R75). -/
theorem divisor_codeInUse {p : Config.Params} (hp : p.WellFormed) (c : Channel) (rpm : Nat) :
    (p.divisor c (codeInUse p c rpm)).isSome := by
  obtain ⟨_, _, _, _, _, _, _, _, _, _, hhigh, hlow, hright, _⟩ := hp
  cases c <;> dsimp only [codeInUse]
  · split_ifs
    · simp [hlow]
    · simp [hhigh]
  · simp [hright]

namespace ChanInv

variable {p : Config.Params} {inited : Bool} {c : Channel} {k k' : Chan (width c)}

theorem reset (p : Config.Params) (inited : Bool) (c : Channel) : ChanInv p inited c (Chan.reset (width c)) :=
  ⟨(BitVec.zero_ushiftRight ..).symm, fun h => absurd rfl h, fun h => absurd rfl h, fun _ => rfl⟩

theorem initialised (p : Config.Params) (c : Channel) : ChanInv p true c (Chan.initialised (width c)) :=
  ⟨(BitVec.zero_ushiftRight ..).symm, fun h => absurd rfl h, fun h => absurd rfl h, fun h => by cases h⟩

/-- A write, after `INIT`, to elements other than the timer's settings. -/
theorem writeOther (h : ChanInv p inited c k) (hi : inited = true) (htop : k'.top = k.top := by rfl)
    (hcmp : k'.cmp = k.cmp := by rfl) (hps : k'.prescaler = k.prescaler := by rfl) (hcs : k'.cs = k.cs := by rfl) :
    ChanInv p inited c k' := by
  obtain ⟨hhalf, hrun, hset, _⟩ := h
  rw [ChanInv, htop, hcmp, hps, hcs]
  exact ⟨hhalf, hrun, hset, fun h => by rw [hi] at h; cases h⟩

/-- `Program` with a code that has a divisor (41_pulse_channel.md R82). -/
theorem program (h : ChanInv p true c k) (t : Nat) {ps : Code} (hps : (p.divisor c ps).isSome) :
    ChanInv p true c (k.program t ps) := by
  obtain ⟨_, hrun, _, _⟩ := h
  exact ⟨rfl, hrun, fun _ => ⟨rfl, hps⟩, fun h => by cases h⟩

theorem start (h : ChanInv p true c k) : ChanInv p true c k.start := by
  obtain ⟨hcmp, _, hps, _⟩ := h
  exact ⟨hcmp, hps, hps, fun h => by cases h⟩

theorem stop (h : ChanInv p true c k) : ChanInv p true c k.stop := by
  obtain ⟨hcmp, _, hps, _⟩ := h
  exact ⟨hcmp, fun h => absurd rfl h, hps, fun h => by cases h⟩

/-- A speed command programs and starts, or does nothing (45_facade.md R114). -/
theorem speedChan (h : ChanInv p true c k) (hp : p.WellFormed) (rpm : Nat) :
    ChanInv p true c (speedChan (mapSpeed p c rpm) k) := by
  cases hm : mapSpeed p c rpm with
  | invalidSpeed => exact h
  | setting top ps clamped =>
    obtain ⟨_, _, _, hps, _⟩ := mapSpeed_setting hm
    have hdiv := divisor_codeInUse hp c rpm
    rw [← hps] at hdiv
    have hprog := (h.program top hdiv).start
    rwa [Chan.program, ofNat_ushiftRight_one top (mapSpeed_top_lt hm)] at hprog

theorem tick (h : ChanInv p inited c k) (hi : inited = true) : ChanInv p inited c k.tick := by
  rw [tick_eq]
  split_ifs <;> exact h.writeOther hi

/-- Before `INIT` no event is pending and no clock runs. -/
theorem inited_of_ip (h : ChanInv p inited c k) (hip : k.ip = true) : inited = true := by
  obtain ⟨_, _, _, hpristine⟩ := h
  by_contra hi
  rw [hpristine (by simpa using hi)] at hip
  cases hip

theorem inited_of_cs (h : ChanInv p inited c k) (hcs : k.cs ≠ 0) : inited = true := by
  obtain ⟨_, hrun, _, _⟩ := h
  exact (hrun hcs).1

/-- Every command at a ready block keeps the invariant of each channel. -/
theorem acceptedChan (h : ChanInv p true c k) (hp : p.WellFormed) (i : Instr) :
    ChanInv p true c (acceptedChan p c k i) := by
  cases i with
  | init => exact initialised p c
  | setSpeedBoth rpmL rpmR => exact h.speedChan hp _
  | stopAll => exact h.stop.writeOther rfl
  | mapSpeed d rpm => exact h
  | setSpeed d rpm =>
    dsimp only [Machine.acceptedChan]
    split_ifs
    · exact h.speedChan hp rpm
    · exact h
  | program d top ps =>
    dsimp only [Machine.acceptedChan]
    split_ifs with hd
    · obtain ⟨_, hps⟩ := hd
      exact h.program _ (Option.isSome_iff_ne_none.2 fun e => hps (.inr e))
    · exact h
  | start d =>
    dsimp only [Machine.acceptedChan]
    split_ifs
    · exact h.start
    · exact h
  | stop d =>
    dsimp only [Machine.acceptedChan]
    split_ifs
    · exact h.stop
    · exact h
  | enable _ _ | setDir _ _ | move _ _ | resetCounts | getStepCount _ | evtEnable _ _ =>
    dsimp only [Machine.acceptedChan]
    split_ifs
    · exact h.writeOther rfl
    · exact h

end ChanInv

/-- Both channels meet their invariant. -/
def State.ChansInv (s : State) : Prop := ∀ c, ChanInv s.config s.inited c (s.chan c)

theorem State.ChansInv.of_same {s t : State} (h : s.ChansInv) (hconfig : t.config = s.config)
    (hinited : t.inited = s.inited) (hchan : ∀ c, t.chan c = s.chan c) : t.ChansInv := by
  intro c
  rw [hconfig, hinited, hchan]
  exact h c

end Sys2Proof.Machine
end

section
/-! PROOFS. The command in progress meets its invariant (10_state.md R37, 20_memory.md R53, 60_exceptions.md R139): when
it is accepted and after each further micro-step. -/

namespace Sys2Proof.Machine

variable {s t : State}

theorem seqInv_idle (h : s.seq = .idle) : SeqInv s := by
  simp only [SeqInv, h]

theorem seqInv_snap {c : Channel} {i : Fin 5} (h : s.seq = .snap c i) :
    SeqInv s ↔ s.inited = true ∧ s.fault = 0 ∧ (s.chan c).ie = false ∧
      ∀ j, j < i.val → byteOf s.snap j = byteOf (s.chan c).edgeCount j := by
  simp only [SeqInv, h]

theorem seqInv_zero {c : Channel} {i : Fin 5} (h : s.seq = .zero c i) :
    SeqInv s ↔ s.inited = true ∧ s.fault = 0 ∧ (s.chan c).ie = false ∧
      ∀ j, j < i.val → byteOf (s.chan c).edgeCount j = 0 := by
  simp only [SeqInv, h]

theorem seqInv_burst {c : Channel} {n : Nat} {phase : Phase} (h : s.seq = .burst c n phase) :
    SeqInv s ↔ s.inited = true ∧ s.fault = 0 ∧ (s.chan c).enabled = true ∧ 1 ≤ n ∧ n ≤ 32768 := by
  simp only [SeqInv, h]

/-- A command is in progress only after `INIT`. -/
theorem SeqInv.inited (h : SeqInv s) (hs : s.seq ≠ .idle) : s.inited = true := by
  cases hq : s.seq with
  | idle => exact absurd hq hs
  | snap c i => exact ((seqInv_snap hq).1 h).1
  | zero c i => exact ((seqInv_zero hq).1 h).1
  | burst c n phase => exact ((seqInv_burst hq).1 h).1

theorem magnitude_le {c : Channel} {steps : Int} (h : (Instr.move c steps).wellFormed = true) :
    magnitude steps ≤ 32768 := by
  simp only [Instr.wellFormed, fitsSigned16, Bool.and_eq_true, decide_eq_true_eq] at h
  unfold magnitude
  omega

/-- Right after a ready block has accepted a command; a burst is as long as a 16-bit step count allows (30_encoding.md
R63, 44_step_burst.md R106). -/
theorem exec_seqInv {i : Instr} (hr : s.Ready) (hw : i.wellFormed = true) (h : exec i s = .next t) : SeqInv t := by
  have hseq := exec_seq hr h
  have hchan := exec_chan hr h
  have ⟨_, hf, hi⟩ := hr
  cases i with
  | getStepCount c =>
    rw [exec, execGetStepCount, ifReady_ready hr] at h
    cases h
    refine (seqInv_snap hseq).2 ⟨by cases c <;> exact hi, by cases c <;> exact hf, ?_,
      fun j hj => absurd hj (Nat.not_lt_zero j)⟩
    rw [hchan, acceptedChan, if_pos rfl]
  | resetCounts =>
    rw [exec, execResetCounts, ifReady_ready hr] at h
    cases h
    refine (seqInv_zero hseq).2 ⟨hi, hf, ?_, fun j hj => absurd hj (Nat.not_lt_zero j)⟩
    rw [hchan]
    rfl
  | move c steps =>
    rw [exec, execMove, ifReady_ready hr] at h
    cases h
    dsimp only at hseq hchan ⊢
    dsimp only [acceptedSeq] at hseq
    split_ifs at hseq hchan ⊢ with hm
    · exact seqInv_idle hseq
    · refine (seqInv_burst hseq).2 ⟨by cases c <;> exact hi, by cases c <;> exact hf, ?_,
        Nat.one_le_iff_ne_zero.2 hm, magnitude_le hw⟩
      rw [hchan, acceptedChan, if_pos rfl]
  | _ => exact seqInv_idle hseq

/-- One more byte is written as `f` has it. -/
theorem bytes_setByte {v : Word} {i : Nat} {f : Nat → Byte} (hi : i < 4) (h : ∀ j, j < i → byteOf v j = f j) {j : Nat}
    (hj : j < i + 1) : byteOf (setByte v i (f i)) j = f j := by
  by_cases e : j = i
  · subst e
    exact byteOf_setByte_self v j (f j) hi
  · rw [byteOf_setByte_ne v i j (f i) (by omega) e]
    exact h j (by omega)

theorem snapStep_seqInv {c : Channel} {i : Fin 5} (h : SeqInv s) (hq : s.seq = .snap c i) :
    SeqInv (s.snapStep c i) := by
  obtain ⟨hi, hf, hie, hbytes⟩ := (seqInv_snap hq).1 h
  unfold State.snapStep
  split_ifs with hlt
  · refine (seqInv_snap rfl).2 ⟨hi, hf, by cases c <;> exact hie, fun j hj => ?_⟩
    rw [val_succ_of_lt hlt] at hj
    cases c <;> exact bytes_setByte hlt hbytes hj
  · exact seqInv_idle rfl

theorem zeroStep_seqInv {c : Channel} {i : Fin 5} (h : SeqInv s) (hq : s.seq = .zero c i) :
    SeqInv (s.zeroStep c i) := by
  obtain ⟨hi, hf, hie, hbytes⟩ := (seqInv_zero hq).1 h
  unfold State.zeroStep
  split_ifs with hlt
  · refine (seqInv_zero rfl).2 ⟨by cases c <;> exact hi, by cases c <;> exact hf, by cases c <;> exact hie,
      fun j hj => ?_⟩
    rw [val_succ_of_lt hlt] at hj
    cases c <;> exact bytes_setByte (f := fun _ => 0) hlt hbytes hj
  · cases c with
    | left => exact (seqInv_zero rfl).2 ⟨hi, hf, rfl, fun j hj => absurd hj (Nat.not_lt_zero j)⟩
    | right => exact seqInv_idle rfl

theorem burstStep_seqInv {c : Channel} {n : Nat} {phase : Phase} (h : SeqInv s) (hq : s.seq = .burst c n phase) :
    SeqInv (s.burstStep c n phase) := by
  obtain ⟨hi, hf, hen, hpos, hle⟩ := (seqInv_burst hq).1 h
  unfold State.burstStep
  cases phase with
  | high =>
    exact (seqInv_burst rfl).2 ⟨by cases c <;> exact hi, by cases c <;> exact hf, by cases c <;> exact hen, hpos, hle⟩
  | low =>
    dsimp only
    split_ifs
    · exact (seqInv_burst rfl).2 ⟨by cases c <;> exact hi, by cases c <;> exact hf, by cases c <;> exact hen,
        by omega, by omega⟩
    · exact seqInv_idle rfl

theorem continueCommand_seqInv (h : SeqInv s) : SeqInv s.continueCommand := by
  unfold State.continueCommand
  split
  · exact h
  · next c i hq => exact snapStep_seqInv h hq
  · next c i hq => exact zeroStep_seqInv h hq
  · next c n phase hq => exact burstStep_seqInv h hq

end Sys2Proof.Machine
end

section
/-! PROOFS. Every step of every agent keeps the block's invariant (10_state.md R41). -/

namespace Sys2Proof.Machine

variable {s t : State}

theorem blockInv_iff : BlockInv s ↔
    s.config.WellFormed ∧ s.fault ∈ [0x00, 0x10, 0x11, 0x12] ∧
      s.status ∈ [0x00, 0x01, 0x02, 0x10, 0x11, 0x12, 0x1F] ∧ s.ChansInv ∧ SeqInv s := by
  constructor
  · rintro ⟨hp, hf, hst, hl, hr, hq⟩
    refine ⟨hp, hf, hst, fun c => ?_, hq⟩
    cases c
    · exact hl
    · exact hr
  · rintro ⟨hp, hf, hst, hc, hq⟩
    exact ⟨hp, hf, hst, hc .left, hc .right, hq⟩

/-! The agents other than the host. -/

/-- What the timers, the handlers and the schedule leave of the block around the channels (60_exceptions.md R138,
20_memory.md R48). -/
structure GlobalsKept (s t : State) : Prop where
  config : t.config = s.config
  inited : t.inited = s.inited
  fault : t.fault = s.fault
  status : t.status = s.status
  snap : t.snap = s.snap
  seq : t.seq = s.seq

/-- What they leave of a channel: its driver and event enable, and its counter while its events are masked. -/
structure SectionKept {w : Nat} (k k' : Chan w) : Prop where
  enabled : k'.enabled = k.enabled
  ie : k'.ie = k.ie
  edgeCount : k.ie = false → k'.edgeCount = k.edgeCount

theorem SectionKept.of_eq {w : Nat} {k k' : Chan w} (h : k' = k) : SectionKept k k' := by
  subst h
  exact ⟨rfl, rfl, fun _ => rfl⟩

theorem endTurn_globalsKept (s : State) : GlobalsKept s s.endTurn := by
  constructor <;> simp

theorem afterHandler_globalsKept (s : State) (t : Turn) (c : Channel) : GlobalsKept s (s.afterHandler t c) := by
  constructor <;> simp

theorem takeEdgeEvent_globalsKept (s : State) (c : Channel) : GlobalsKept s (s.takeEdgeEvent c) := by
  cases c <;> constructor <;> rfl

theorem timerTurn_globalsKept (s : State) (c : Channel) : GlobalsKept s (s.timerTurn c) := by
  unfold State.timerTurn State.tick
  split_ifs <;> constructor <;> simp

/-- These agents may step inside a section or a burst. -/
theorem SeqInv.of_kept (h : SeqInv s) (hg : GlobalsKept s t) (hk : ∀ c, SectionKept (s.chan c) (t.chan c)) :
    SeqInv t := by
  have hseq := hg.seq
  cases hq : s.seq with
  | idle => exact seqInv_idle (hseq.trans hq)
  | snap c i =>
    obtain ⟨hi, hf, hie, hbytes⟩ := (seqInv_snap hq).1 h
    rw [seqInv_snap (hseq.trans hq), hg.inited, hg.fault, hg.snap, (hk c).ie, (hk c).edgeCount hie]
    exact ⟨hi, hf, hie, hbytes⟩
  | zero c i =>
    obtain ⟨hi, hf, hie, hbytes⟩ := (seqInv_zero hq).1 h
    rw [seqInv_zero (hseq.trans hq), hg.inited, hg.fault, (hk c).ie, (hk c).edgeCount hie]
    exact ⟨hi, hf, hie, hbytes⟩
  | burst c n phase =>
    rw [seqInv_burst (hseq.trans hq), hg.inited, hg.fault, (hk c).enabled]
    exact (seqInv_burst hq).1 h

namespace BlockInv

theorem config_wellFormed (h : BlockInv s) : s.config.WellFormed := by
  obtain ⟨hp, _⟩ := h
  exact hp

theorem chans (h : BlockInv s) : s.ChansInv := by
  obtain ⟨_, _, _, hc, _⟩ := blockInv_iff.1 h
  exact hc

theorem of_kept (h : BlockInv s) (hg : GlobalsKept s t)
    (hc : ∀ c, ChanInv s.config s.inited c (t.chan c) ∧ SectionKept (s.chan c) (t.chan c)) : BlockInv t := by
  obtain ⟨hp, hf, hst, _, hq⟩ := blockInv_iff.1 h
  refine blockInv_iff.2 ⟨hg.config ▸ hp, hg.fault ▸ hf, hg.status ▸ hst, fun c => ?_, hq.of_kept hg fun c => (hc c).2⟩
  rw [hg.config, hg.inited]
  exact (hc c).1

theorem of_same (h : BlockInv s) (hg : GlobalsKept s t) (hchan : ∀ c, t.chan c = s.chan c) : BlockInv t :=
  h.of_kept hg fun c => ⟨hchan c ▸ h.chans c, .of_eq (hchan c)⟩

theorem endTurn (h : BlockInv s) : BlockInv s.endTurn := h.of_same (endTurn_globalsKept s) (endTurn_chan s)

theorem afterHandler (h : BlockInv s) (t : Turn) (c : Channel) : BlockInv (s.afterHandler t c) :=
  h.of_same (afterHandler_globalsKept s t c) (afterHandler_chan s t c)

/-- An enabled handler's events are not masked, so it counts outside the section only (20_memory.md R53). -/
theorem takeEdgeEvent (h : BlockInv s) {c : Channel} (hip : (s.chan c).ip = true) (hie : (s.chan c).ie = true) :
    BlockInv (s.takeEdgeEvent c) := by
  refine h.of_kept (takeEdgeEvent_globalsKept s c) fun d => ?_
  rw [takeEdgeEvent_chan]
  split_ifs with e
  · subst e
    refine ⟨(h.chans c).writeOther ((h.chans c).inited_of_ip hip), rfl, rfl, fun hmask => ?_⟩
    rw [hie] at hmask
    cases hmask
  · exact ⟨h.chans d, .of_eq rfl⟩

theorem timerTurn (h : BlockInv s) (c : Channel) : BlockInv (s.timerTurn c) := by
  refine h.of_kept (timerTurn_globalsKept s c) fun d => ?_
  obtain ⟨hedge, hen, _, hie, _⟩ := timerTurn_chan s c d
  refine ⟨?_, hen, hie, fun _ => hedge⟩
  unfold State.timerTurn
  split_ifs with hcs
  · exact h.chans d
  · rw [tick_chan]
    split_ifs
    · exact (h.chans d).tick ((h.chans c).inited_of_cs hcs)
    · exact h.chans d

/-- Hardware reset asks only that the parameters are well-formed (70_reset_and_hazards.md R140). -/
theorem hardwareReset (hp : s.config.WellFormed) : BlockInv s.hardwareReset := by
  refine blockInv_iff.2 ⟨hp, List.mem_cons_self, List.mem_cons_self, fun c => ?_, seqInv_idle rfl⟩
  cases c <;> exact ChanInv.reset _ _ _

end BlockInv

/-! The host. -/

theorem HostWrites.fault_mem (h : HostWrites s t) (hf : s.fault ∈ [0x00, 0x10, 0x11, 0x12]) :
    t.fault ∈ [0x00, 0x10, 0x11, 0x12] := by
  rcases h.fault with e | ⟨r, e⟩ <;> rw [e]
  · exact hf
  · cases r <;> decide

theorem HostWrites.status_mem (h : HostWrites s t) (hst : s.status ∈ [0x00, 0x01, 0x02, 0x10, 0x11, 0x12, 0x1F]) :
    t.status ∈ [0x00, 0x01, 0x02, 0x10, 0x11, 0x12, 0x1F] := by
  rcases h.status with e | ⟨st, e⟩ <;> rw [e]
  · exact hst
  · cases st <;> decide

/-- A command presented at an idle port, accepted or not. -/
theorem exec_idle_inv {i : Instr} (hs : s.seq = .idle) (hp : s.config.WellFormed) (hc : s.ChansInv)
    (hw : i.wellFormed = true) (h : exec i s = .next t) : t.ChansInv ∧ SeqInv t := by
  have host := exec_hostWrites h
  rcases exec_cases h with ⟨hb, _⟩ | ⟨_, _, rfl⟩ | ⟨_, _, _, _, rfl⟩ | ⟨_, hf, rfl⟩ | hr
  · exact absurd hs hb
  · exact ⟨hc.of_same rfl rfl fun c => by cases c <;> rfl, seqInv_idle rfl⟩
  · exact ⟨hc.of_same rfl rfl fun c => by cases c <;> rfl, seqInv_idle rfl⟩
  · rw [exec_init_accepted hs hf] at h
    cases h
    refine ⟨fun c => ?_, seqInv_idle rfl⟩
    cases c <;> exact ChanInv.initialised _ _
  · refine ⟨fun c => ?_, exec_seqInv hr hw h⟩
    have ⟨_, _, hi⟩ := hr
    have hcc := hc c
    rw [hi] at hcc
    rw [host.config, host.inited hi, exec_chan hr h]
    exact hcc.acceptedChan hp i

theorem continueCommand_chansInv (hc : s.ChansInv) (hi : s.inited = true) : s.continueCommand.ChansInv := by
  intro c
  have host := continueCommand_hostWrites s
  obtain ⟨_, _, _, hchan⟩ := continueCommand_chan_eq s c
  rw [host.config, host.inited hi, hchan, ← hi]
  exact (hc c).writeOther hi

theorem rejectWord_inited (s : State) (e : Reject) : (s.rejectWord e).inited = s.inited := by
  unfold State.rejectWord
  split_ifs <;> rfl

/-- The host's turn: a wait, a word, or a further micro-step. -/
theorem hostTurn_inv (hp : s.config.WellFormed) (hc : s.ChansInv) (hq : SeqInv s) (h : hostTurn s = .next t) :
    t.ChansInv ∧ SeqInv t := by
  rcases hostTurn_cases h with ⟨_, _, rfl⟩ | ⟨hs, w, rest, _, hpres⟩ | ⟨hb, rfl⟩
  · exact ⟨hc, hq⟩
  · have hc' : State.ChansInv { s with port := rest } := hc.of_same rfl rfl fun c => by cases c <;> rfl
    rcases present_cases hpres with ⟨i, hd, he⟩ | ⟨e, _, rfl⟩
    · exact exec_idle_inv (s := { s with port := rest }) hs hp hc' (decode_wellFormed hd) he
    · exact ⟨hc'.of_same (rejectWord_hostWrites _ e).config (rejectWord_inited _ e) (rejectWord_chan _ e),
        seqInv_idle (rejectWord_seq e hs)⟩
  · exact ⟨continueCommand_chansInv hc (hq.inited hb), continueCommand_seqInv hq⟩

theorem BlockInv.hostTurn (h : BlockInv s) (ht : hostTurn s = .next t) : BlockInv t := by
  have host := hostTurn_hostWrites ht
  obtain ⟨hp, hf, hst, hc, hq⟩ := blockInv_iff.1 h
  obtain ⟨hc', hq'⟩ := hostTurn_inv hp hc hq ht
  exact blockInv_iff.2 ⟨host.config ▸ hp, host.fault_mem hf, host.status_mem hst, hc', hq'⟩

/-- Settles O44, agent by agent. -/
theorem everyStepKeepsTheInvariant : Obligations.EveryStepKeepsTheInvariant := by
  intro s t h hs
  rcases step_cases hs with ⟨_, rfl⟩ | ⟨_, c, hd, rfl⟩ | ⟨_, _, hh⟩ | ⟨c, _, _, rfl⟩ | ⟨c, _, _, rfl⟩
  · exact .hardwareReset h.endTurn.config_wellFormed
  · obtain ⟨hip, hie⟩ := dueHandler_some hd
    exact (h.afterHandler _ c).takeEdgeEvent (by rwa [afterHandler_chan]) (by rwa [afterHandler_chan])
  · exact h.endTurn.hostTurn hh
  · exact h.endTurn.timerTurn c
  · exact h.endTurn

end Sys2Proof.Machine
end

section
/-! PROOFS. The reset values, the invariant at reset, and the pins (10_state.md R40, R41, R42). -/

namespace Sys2Proof.Machine

/-- No pin is driven before `INIT` (10_state.md R40). -/
theorem pin_uninitialised {s : State} (h : s.inited = false) (c : Channel) (p : Pin) : s.pin c p = .undriven :=
  if_pos h

theorem pin_pulse {s : State} (h : s.inited = true) (c : Channel) : s.pin c .pulse = .driven (s.chan c).pulse :=
  if_neg (by simp [h])

theorem pin_dir {s : State} (h : s.inited = true) (c : Channel) :
    s.pin c .dir = .driven (s.config.dirFwd c ^^ (s.chan c).direction.bit) :=
  if_neg (by simp [h])

theorem pin_en {s : State} (h : s.inited = true) (c : Channel) :
    s.pin c .en = .driven (!(s.config.enActive c ^^ (s.chan c).enabled)) :=
  if_neg (by simp [h])

/-- Settles O40. -/
theorem resetValuesAreAllZero : Obligations.ResetValuesAreAllZero := by
  refine ⟨fun c => ?_, rfl, rfl, rfl, rfl, rfl, rfl, rfl, pin_uninitialised rfl⟩
  cases c <;> rfl

/-- The supplied parameters stay well-formed at the reference threshold, which no constraint mentions
(00_scope.md R8). -/
theorem reset_config_wellFormed : State.reset.config.WellFormed := Config.supplied.wf

/-- Settles O43: the reset state is what hardware reset makes of itself. -/
theorem invariantHoldsAtReset : Obligations.InvariantHoldsAtReset :=
  BlockInv.hardwareReset (s := State.reset) reset_config_wellFormed

/-- Settles O57: an active level is a parameter, and the pin is at it or at its complement. -/
theorem pinsAreFunctionsOfState : Obligations.PinsAreFunctionsOfState := by
  intro s c
  refine ⟨fun h p => pin_uninitialised h c p,
    fun h => ⟨pin_pulse h c, fun hd => ?_, fun hd => ?_, fun he => ?_, fun he => ?_⟩⟩
  · rw [pin_dir h, hd, Direction.bit, Bool.xor_false]
  · rw [pin_dir h, hd, Direction.bit, Bool.xor_true]
  · rw [pin_en h, he, Bool.xor_true, Bool.not_not]
  · rw [pin_en h, he, Bool.xor_false]

end Sys2Proof.Machine
end

section
/-! PROOFS. Who writes an edge counter (20_memory.md R48, 42_edge_counter.md R98, R100). -/

namespace Sys2Proof.Machine

/-- A word that changes a counter is `INIT`, and the counter is 0 after it. -/
theorem present_edgeCount {w : Command} {s t : State} {c : Channel} (h : present w s = .next t)
    (hne : (t.chan c).edgeCount ≠ (s.chan c).edgeCount) :
    decode w = .ok .init ∧ (t.chan c).edgeCount = 0 := by
  rcases present_cases h with ⟨i, hd, he⟩ | ⟨e, _, rfl⟩
  · by_cases hi : i = .init
    · subst hi
      rcases exec_init_chan he with e | e
      · exact absurd (by rw [e]) hne
      · exact ⟨hd, by rw [e]; rfl⟩
    · obtain ⟨hedge, _⟩ := exec_chan_events he hi c
      exact absurd hedge hne
  · exact absurd (by rw [rejectWord_chan]) hne

/-- The host changes a counter by a zeroing micro-step or by `INIT`. -/
theorem hostTurn_edgeCount {s t : State} {c : Channel} (h : hostTurn s = .next t)
    (hne : (t.chan c).edgeCount ≠ (s.chan c).edgeCount) :
    (∃ i : Fin 5, i.val < 4 ∧ s.seq = .zero c i ∧ byteOf (t.chan c).edgeCount i.val = 0) ∨
    (s.seq = .idle ∧ (t.chan c).edgeCount = 0 ∧ ∃ w rest, s.port = w :: rest ∧ decode w = .ok .init) := by
  rcases hostTurn_cases h with ⟨_, _, rfl⟩ | ⟨hs, w, rest, hport, hp⟩ | ⟨_, rfl⟩
  · exact absurd rfl hne
  · have keep : ({ s with port := rest } : State).chan c = s.chan c := by cases c <;> rfl
    rw [← keep] at hne
    obtain ⟨hd, hzero⟩ := present_edgeCount hp hne
    exact .inr ⟨hs, hzero, w, rest, hport, hd⟩
  · rcases continueCommand_edgeCount s c with hedge | ⟨i, hi, hq, hedge⟩
    · exact absurd hedge hne
    · exact .inl ⟨i, hi, hq, by rw [hedge, byteOf_setByte_self _ _ _ hi]⟩

/-- Settles O51, agent by agent: the handler counts, the host zeroes, a timer writes no counter. -/
theorem edgeCountHasOneWriter : Obligations.EdgeCountHasOneWriter := by
  intro s t c hreset h hne
  rcases step_cases h with ⟨ht, _⟩ | ⟨_, d, hd, rfl⟩ | ⟨ht, _, hh⟩ | ⟨d, _, _, rfl⟩ | ⟨d, _, _, rfl⟩
  · exact absurd ht hreset
  · rw [takeEdgeEvent_chan, afterHandler_chan] at hne ⊢
    split_ifs at hne ⊢ with e
    · exact .inl ⟨e ▸ hd, rfl⟩
    · exact absurd rfl hne
  · rw [← endTurn_chan s] at hne
    have hwrite := hostTurn_edgeCount hh hne
    rw [endTurn_seq, endTurn_port] at hwrite
    exact .inr (hwrite.imp (⟨ht, ·⟩) (⟨ht, ·⟩))
  · obtain ⟨hedge, _⟩ := timerTurn_chan s.endTurn d c
    exact absurd (by rw [hedge, endTurn_chan]) hne
  · exact absurd (by rw [endTurn_chan]) hne

end Sys2Proof.Machine
end

section
/-! PROOFS. The critical section (20_memory.md R51, R52), and what one channel's agents and commands leave of the
other channel (R48). -/

namespace Sys2Proof.Machine

theorem takeEdgeEvent_chan_ne (s : State) {c d : Channel} (h : d ≠ c) : (s.takeEdgeEvent c).chan d = s.chan d := by
  rw [takeEdgeEvent_chan, if_neg h.symm]

@[simp] theorem enterSection_chan_self (s : State) (c : Channel) :
    (s.enterSection c).chan c = { s.chan c with ie := false } := by
  cases c <;> rfl

theorem enterSection_chan_ne (s : State) {c d : Channel} (h : d ≠ c) : (s.enterSection c).chan d = s.chan d :=
  calc (s.enterSection c).chan d
    _ = (s.setChan c { s.chan c with ie := false }).chan d := by cases d <;> rfl
    _ = s.chan d := chan_setChan_ne s h _

@[simp] theorem exitSection_chan_self (s : State) (c : Channel) :
    (s.exitSection c).chan c = { s.chan c with ie := s.savedIe } :=
  chan_setChan_self s c _

theorem exitSection_chan_ne (s : State) {c d : Channel} (h : d ≠ c) : (s.exitSection c).chan d = s.chan d :=
  chan_setChan_ne s h _

theorem writePulse_chan_ne (s : State) {c d : Channel} (h : d ≠ c) (level : Bool) :
    (s.writePulse c level).chan d = s.chan d := by
  rw [State.writePulse, emit_chan, emit_chan, chan_setChan_ne s h]

/-- Settles O56: entry clears the enable and saves it, so that exit finds what it restores. -/
theorem criticalSectionSavesAndRestores : Obligations.CriticalSectionSavesAndRestores := by
  intro s c
  refine ⟨rfl, ?_, fun d hd => ⟨enterSection_chan_ne s hd, exitSection_chan_ne s hd⟩, rfl, ?_⟩
  · rw [enterSection_chan_self, Chan.eventDue, Bool.and_false]
  · have hsaved : (s.enterSection c).savedIe = (s.chan c).ie := rfl
    rw [exitSection_chan_self, enterSection_chan_self, hsaved]

@[simp] theorem withSeq_chan (s : State) (q : Seq) (c : Channel) : ({ s with seq := q } : State).chan c = s.chan c := by
  cases c <;> rfl

theorem snapStep_chan_ne (s : State) {c d : Channel} (h : d ≠ c) (i : Fin 5) :
    (s.snapStep c i).chan d = s.chan d := by
  unfold State.snapStep
  split_ifs
  · cases d <;> rfl
  · rw [respond_chan, exitSection_chan_ne s h]

theorem burstStep_chan_ne (s : State) {c d : Channel} (h : d ≠ c) (n : Nat) (phase : Phase) :
    (s.burstStep c n phase).chan d = s.chan d := by
  unfold State.burstStep
  cases phase with
  | high => rw [withSeq_chan, writePulse_chan_ne s h]
  | low =>
    dsimp only
    split_ifs
    · rw [withSeq_chan, writePulse_chan_ne s h]
    · rw [respond_chan, writePulse_chan_ne s h]

theorem hostTurn_snap {s : State} {c : Channel} {i : Fin 5} (h : s.seq = .snap c i) :
    hostTurn s = .next (s.snapStep c i) := by
  rw [hostTurn_inProgress (by simp [h]), State.continueCommand, h]

theorem hostTurn_burst {s : State} {c : Channel} {n : Nat} {phase : Phase} (h : s.seq = .burst c n phase) :
    hostTurn s = .next (s.burstStep c n phase) := by
  rw [hostTurn_inProgress (by simp [h]), State.continueCommand, h]

/-- A command addressed to one channel asks nothing of the other. -/
theorem acceptedChan_of_target_ne (p : Config.Params) {c d : Channel} (h : d ≠ c) (k : Chan (width d)) {i : Instr}
    (hi : i.target = some c) : acceptedChan p d k i = k := by
  cases i <;> cases hi
  case mapSpeed => rfl
  case program => exact if_neg fun ⟨e, _⟩ => h e.symm
  all_goals exact if_neg h.symm

theorem exec_chan_of_target_ne {i : Instr} {s t : State} {c d : Channel} (h : d ≠ c) (hi : i.target = some c)
    (he : exec i s = .next t) : t.chan d = s.chan d := by
  rcases exec_cases he with ⟨_, rfl⟩ | ⟨_, _, rfl⟩ | ⟨_, _, _, _, rfl⟩ | ⟨_, _, rfl⟩ | hr
  · rfl
  · cases d <;> rfl
  · cases d <;> rfl
  · cases hi
  · rw [exec_chan hr he, acceptedChan_of_target_ne _ h _ hi]

/-- Settles O52: timer, handler, command, further micro-step. -/
theorem channelsAreIndependent : Obligations.ChannelsAreIndependent := by
  refine ⟨fun s t c d hne ht hn h => ?_, fun s t c d hne hreset hdue h => ?_,
    fun s t i c d hne hi h => exec_chan_of_target_ne hne hi h, fun s t c d hne hq h => ?_⟩
  · rw [step_timer ht hn] at h
    cases h
    rw [timerTurn_chan_ne _ hne.symm, endTurn_chan]
  · rw [step_handler hreset hdue] at h
    cases h
    rw [takeEdgeEvent_chan_ne _ hne, afterHandler_chan]
  · rcases hq with ⟨i, hq⟩ | ⟨n, phase, hq⟩
    · rw [hostTurn_snap hq] at h
      cases h
      exact snapStep_chan_ne s hne i
    · rw [hostTurn_burst hq] at h
      cases h
      exact burstStep_chan_ne s hne n phase

end Sys2Proof.Machine
end

section
/-! PROOFS. The read-out of the state by identifier (20_memory.md R44). -/

namespace Sys2Proof.Machine

/-- What the identifiers of a channel count from (20_memory.md R44). -/
def elementBase : Channel → Nat
  | .left => 0x00
  | .right => 0x20

/-- Numbers below 0x20 are Left's. -/
theorem element_of_lt (s : State) {n : Nat} (h : n < 0x20) : s.element n = s.left.element n := by
  unfold State.element
  split
  case h_7 => exact if_pos h
  all_goals omega

/-- Numbers from 0x20 on that are no global identifier are Right's. -/
theorem element_of_ge (s : State) {n : Nat} (h : 0x20 ≤ n) (hg : n < 0x40 ∨ 0x46 ≤ n) :
    s.element n = s.right.element (n - 0x20) := by
  unfold State.element
  split
  case h_7 => exact if_neg (Nat.not_lt.2 h)
  all_goals omega

/-- A channel's identifier is read from its base on. -/
theorem element_base_add (s : State) (c : Channel) {n : Nat} (h : n < 0x20) :
    s.element (elementBase c + n) = (s.chan c).element n := by
  cases c with
  | left => rw [elementBase, Nat.zero_add, element_of_lt s h, chan_left]
  | right =>
    rw [elementBase, element_of_ge s (by omega) (by omega), Nat.add_sub_cancel_left, chan_right]

/-- A channel has twelve elements. -/
theorem chanElement_none {w : Nat} (k : Chan w) {n : Nat} (h : 0x0C ≤ n) : k.element n = none := by
  unfold Chan.element
  split
  case h_13 => rfl
  all_goals omega

theorem bitValue_direction (d : Direction) : bitValue d.bit = if d = .reverse then 1 else 0 := by
  cases d <;> rfl

/-- Settles O58: below each base the channel's own table is read. -/
theorem stateElementsHaveTheirIdentifiers : Obligations.StateElementsHaveTheirIdentifiers := by
  refine fun s => ⟨fun c base hbase => ?_, rfl, rfl, rfl, rfl, rfl, rfl, fun n hn => ?_⟩
  · have read {n : Nat} {v : Word} (hn : n < 0x20) (hv : (s.chan c).element n = some v) :
        s.element (base + n) = some v := by
      rw [hbase]
      exact (element_base_add s c hn).trans hv
    have hdir := congrArg some (bitValue_direction (s.chan c).direction)
    refine ⟨read ?_ rfl, read ?_ hdir, read ?_ rfl, read ?_ rfl, read ?_ rfl, read ?_ rfl, read ?_ rfl, read ?_ rfl,
      read ?_ rfl, read ?_ rfl, read ?_ rfl, read ?_ rfl⟩ <;> decide
  · rcases hn with ⟨hlo, hhi⟩ | ⟨hlo, hhi⟩ | hlo
    · rw [element_of_lt s hhi, chanElement_none _ hlo]
    · rw [element_of_ge s (by omega) (.inl hhi), chanElement_none _ (by omega)]
    · rw [element_of_ge s (by omega) (.inr hlo), chanElement_none _ (by omega)]

end Sys2Proof.Machine
end

section
/-! PROOFS. Decode and encode agree (30_encoding.md R57, R61, R63): the operand fields of a command's word, what the
decoder makes of them, and the way back. -/

namespace Sys2Proof

/-- `CH` in a command's word (30_encoding.md R58). -/
def Instr.fieldCH (i : Instr) : Byte :=
  match i.target with
  | some c => channelByte c
  | none => 0

/-- `A` in a command's word (30_encoding.md R63). -/
def Instr.fieldA : Instr → Half
  | .enable _ flag | .setDir _ flag | .evtEnable _ flag => flagField flag
  | .setSpeed _ n | .mapSpeed _ n | .program _ n _ | .setSpeedBoth n _ => BitVec.ofNat 16 n
  | .move _ steps => BitVec.ofInt 16 steps
  | .init | .stopAll | .resetCounts | .getStepCount _ | .start _ | .stop _ => 0

/-- `B` in a command's word (30_encoding.md R63). -/
def Instr.fieldB : Instr → Half
  | .setSpeedBoth _ rpmR => BitVec.ofNat 16 rpmR
  | .program _ _ ps => ps.setWidth 16
  | .init | .enable _ _ | .setDir _ _ | .setSpeed _ _ | .move _ _ | .stopAll | .resetCounts | .getStepCount _
  | .start _ | .stop _ | .mapSpeed _ _ | .evtEnable _ _ => 0

theorem encode_eq_pack (i : Instr) : encode i = pack i.opcode.number i.fieldCH i.fieldA i.fieldB := by
  cases i <;> rfl

/-! The checks of the decoder. -/

theorem reservedZero_iff (o : Opcode) (w : Command) :
    o.reservedZero w = true ↔
      (o.usesChannel = false → chField w = 0) ∧ aField w &&& ~~~o.freeA = 0 ∧ bField w &&& ~~~o.freeB = 0 := by
  cases h : o.usesChannel <;> simp [Opcode.reservedZero, h, and_assoc]

theorem decode_undefined {w : Command} (h : Opcode.ofByte (opField w) = none) : decode w = .error .illegalOpcode := by
  unfold decode
  rw [h]

theorem decode_reservedBits {o : Opcode} {w : Command} (hop : opField w = o.number) (hz : o.reservedZero w = false) :
    decode w = .error .reservedBits := by
  rw [decode_of_number hop, if_pos hz]

theorem decode_invalidChannel {o : Opcode} {w : Command} (hop : opField w = o.number) (hz : o.reservedZero w = true)
    (hu : o.usesChannel = true) (hch : 1 < (chField w).toNat) : decode w = .error .invalidChannel := by
  rw [decode_of_number hop, if_neg (by simp [hz]), if_pos ⟨hu, hch⟩]

/-- A word that passes every check is the command assembled from its fields. -/
theorem decode_accepted {o : Opcode} {w : Command} (hop : opField w = o.number) (hz : o.reservedZero w = true)
    (hch : o.usesChannel = true → (chField w).toNat ≤ 1) :
    decode w = .ok (o.assemble (channelOf (chField w)) (aField w) (bField w)) := by
  rw [decode_of_number hop, if_neg (by simp [hz]), if_neg fun ⟨hu, hlt⟩ => absurd (hch hu) (Nat.not_le.2 hlt)]

/-! From a command to its word and back. -/

theorem usesChannel_iff_target (i : Instr) : i.opcode.usesChannel = i.target.isSome := by
  cases i <;> rfl

theorem channelByte_le_one (c : Channel) : (channelByte c).toNat ≤ 1 := by
  cases c <;> decide

@[simp] theorem channelOf_channelByte (c : Channel) : channelOf (channelByte c) = c := by
  cases c <;> rfl

@[simp] theorem flagOf_flagField (b : Bool) : flagOf (flagField b) = b := by
  cases b <;> rfl

theorem flagField_reserved (b : Bool) : flagField b &&& ~~~(0x0001 : Half) = 0 := by
  cases b <;> rfl

theorem fieldCH_le_one (i : Instr) : i.fieldCH.toNat ≤ 1 := by
  unfold Instr.fieldCH
  split
  · exact channelByte_le_one _
  · decide

theorem fieldA_reserved (i : Instr) : i.fieldA &&& ~~~i.opcode.freeA = 0 := by
  cases i with
  | enable _ flag | setDir _ flag | evtEnable _ flag => exact flagField_reserved flag
  | _ => simp [Instr.fieldA, Instr.opcode, Opcode.freeA]

theorem codeField_reserved (ps : Code) : ps.setWidth 16 &&& ~~~(0x0007 : Half) = 0 := by
  revert ps
  decide

theorem fieldB_reserved (i : Instr) : i.fieldB &&& ~~~i.opcode.freeB = 0 := by
  cases i with
  | program _ _ ps => exact codeField_reserved ps
  | _ => simp [Instr.fieldB, Instr.opcode, Opcode.freeB]

theorem fieldCH_unused {i : Instr} (h : i.opcode.usesChannel = false) : i.fieldCH = 0 := by
  rw [usesChannel_iff_target, Option.isSome_eq_false_iff, Option.isNone_iff_eq_none] at h
  rw [Instr.fieldCH, h]

theorem reservedZero_encode (i : Instr) : i.opcode.reservedZero (encode i) = true := by
  rw [encode_eq_pack, reservedZero_iff, chField_pack, aField_pack, bField_pack]
  exact ⟨fieldCH_unused, fieldA_reserved i, fieldB_reserved i⟩

theorem toNat_ofNat_of_fits {n : Nat} (h : fitsUnsigned16 n = true) : (BitVec.ofNat 16 n).toNat = n := by
  have hn : n ≤ 65535 := of_decide_eq_true h
  rw [BitVec.toNat_ofNat, Nat.mod_eq_of_lt (by omega)]

theorem toInt_ofInt_of_fits {z : Int} (h : fitsSigned16 z = true) : (BitVec.ofInt 16 z).toInt = z := by
  obtain ⟨hlo, hhi⟩ : -32768 ≤ z ∧ z ≤ 32767 := by simpa [fitsSigned16] using h
  exact BitVec.toInt_ofInt_eq_self (by decide) hlo (by omega)

theorem codeOf_setWidth (ps : Code) : codeOf (ps.setWidth 16) = ps := by
  revert ps
  decide

/-- The operands are read back from the fields (30_encoding.md R63). -/
theorem assemble_fields {i : Instr} (h : i.wellFormed = true) :
    i.opcode.assemble (channelOf i.fieldCH) i.fieldA i.fieldB = i := by
  cases i with
  | init | stopAll | resetCounts => rfl
  | enable c flag | setDir c flag | evtEnable c flag =>
    simp [Instr.opcode, Opcode.assemble, Instr.fieldCH, Instr.target, Instr.fieldA]
  | getStepCount c | start c | stop c => simp [Instr.opcode, Opcode.assemble, Instr.fieldCH, Instr.target]
  | setSpeed c rpm | mapSpeed c rpm =>
    simp only [Instr.opcode, Opcode.assemble, Instr.fieldCH, Instr.target, Instr.fieldA, channelOf_channelByte,
      toNat_ofNat_of_fits h]
  | setSpeedBoth rpmL rpmR =>
    obtain ⟨hl, hr⟩ := Bool.and_eq_true_iff.1 h
    simp only [Instr.opcode, Opcode.assemble, Instr.fieldA, Instr.fieldB, toNat_ofNat_of_fits hl,
      toNat_ofNat_of_fits hr]
  | move c steps =>
    simp only [Instr.opcode, Opcode.assemble, Instr.fieldCH, Instr.target, Instr.fieldA, channelOf_channelByte,
      toInt_ofInt_of_fits h]
  | program c top ps =>
    simp only [Instr.opcode, Opcode.assemble, Instr.fieldCH, Instr.target, Instr.fieldA, Instr.fieldB,
      channelOf_channelByte, codeOf_setWidth, toNat_ofNat_of_fits h]

/-- Settles O1: an encoded word passes every check, and its fields give the operands back. -/
theorem decodeOfEncodeIsIdentity : Obligations.DecodeOfEncodeIsIdentity := by
  intro i hi
  have hz := reservedZero_encode i
  rw [encode_eq_pack] at hz ⊢
  rw [decode_accepted (opField_pack _ _ _ _) hz fun _ => by rw [chField_pack]; exact fieldCH_le_one i,
    chField_pack, aField_pack, bField_pack, assemble_fields hi]

/-! From a word to its command and back. -/

theorem fieldCH_assemble {o : Opcode} {ch : Byte} (a b : Half) (hu : o.usesChannel = true → ch.toNat ≤ 1)
    (hz : o.usesChannel = false → ch = 0) : (o.assemble (channelOf ch) a b).fieldCH = ch := by
  cases o with
  | init | setSpeedBoth | stopAll | resetCounts => exact (hz rfl).symm
  | _ => exact channelByte_channelOf (hu rfl)

/-- A field with no free bit is zero (30_encoding.md R65). -/
theorem eq_zero_of_reserved {a : Half} (h : a &&& ~~~(0 : Half) = 0) : a = 0 :=
  (eq_and_of_and_compl h).trans BitVec.and_zero

theorem fieldA_assemble {o : Opcode} (c : Channel) {a : Half} (b : Half) (h : a &&& ~~~o.freeA = 0) :
    (o.assemble c a b).fieldA = a := by
  cases o with
  | enable | setDir | evtEnable => exact flagField_flagOf h
  | setSpeed | setSpeedBoth | program | mapSpeed => exact (BitVec.ofNat_toNat 16 a).trans (BitVec.setWidth_eq a)
  | move => exact BitVec.ofInt_toInt
  | _ => exact (eq_zero_of_reserved h).symm

theorem fieldB_assemble {o : Opcode} (c : Channel) (a : Half) {b : Half} (h : b &&& ~~~o.freeB = 0) :
    (o.assemble c a b).fieldB = b := by
  cases o with
  | setSpeedBoth => exact (BitVec.ofNat_toNat 16 b).trans (BitVec.setWidth_eq b)
  | program => exact setWidth_codeOf h
  | _ => exact (eq_zero_of_reserved h).symm

/-- Settles O2: the fields of an accepted word are those of the command read from it. -/
theorem decodedWordsEncodeBack : Obligations.DecodedWordsEncodeBack := by
  intro w i h
  refine ⟨Machine.decode_wellFormed h, ?_⟩
  obtain ⟨o, hop, hz, hu, rfl⟩ := decode_ok_fields h
  obtain ⟨hch, ha, hb⟩ := (reservedZero_iff o w).1 hz
  rw [encode_eq_pack, opcode_assemble, fieldCH_assemble _ _ hu hch, fieldA_assemble _ _ ha, fieldB_assemble _ _ hb,
    ← hop, pack_fields]

/-! Mask and match. -/

/-- Settles O4: the mask fixes the bits that the decoder checks. -/
theorem validEncodingIsMaskMatch : Obligations.ValidEncodingIsMaskMatch := by
  refine ⟨fun o w => ⟨?_, fun h => ?_⟩, fun o w hop hne => ?_⟩
  · rintro ⟨i, hd, rfl⟩
    obtain ⟨o, hop, hz, hch, rfl⟩ := decode_ok_fields hd
    rw [opcode_assemble]
    exact (match_iff_checks o w).2 ⟨hop, hz, hch⟩
  · obtain ⟨hop, hz, hch⟩ := (match_iff_checks o w).1 h
    exact ⟨_, decode_accepted hop hz hch, opcode_assemble _ _ _ _⟩
  · cases hz : o.reservedZero w with
    | false => exact .inl (decode_reservedBits hop hz)
    | true =>
      have hch : ¬ (o.usesChannel = true → (chField w).toNat ≤ 1) :=
        fun hch => hne ((match_iff_checks o w).2 ⟨hop, hz, hch⟩)
      obtain ⟨hu, habove⟩ := Classical.not_imp.1 hch
      exact .inr (decode_invalidChannel hop hz hu (Nat.not_le.1 habove))

/-- Settles O5: the decoder evaluated on each of the fifteen words. -/
theorem writtenOutWordsDecode : Obligations.WrittenOutWordsDecode :=
  ⟨rfl, rfl, rfl, rfl, rfl, rfl, rfl, rfl, rfl, rfl, rfl, rfl, rfl, rfl, rfl⟩

end Sys2Proof
end

section
/-! PROOFS. What a word that is no command does at a ready port (30_encoding.md R65, R66, R67, 60_exceptions.md R122),
and what a word that is one does there. -/

namespace Sys2Proof.Machine

theorem present_rejected {w : Command} {s : State} {e : Reject} (hs : s.seq = .idle) (hf : s.fault = 0)
    (h : decode w = .error e) : present w s = .next (s.answeredFault (rejectRaises e).status.code) := by
  rw [present_of_decode_error h, rejectWord_raises e hs hf]

theorem ofByte_undefined {b : Byte}
    (h : b.toNat = 0x00 ∨ (0x0A ≤ b.toNat ∧ b.toNat ≤ 0x0F) ∨ 0x15 ≤ b.toNat) : Opcode.ofByte b = none := by
  revert b
  decide

/-- Settles O6: the all-zero and the all-ones word are two of those with an undefined opcode. -/
theorem undefinedOpcodesRaiseIllegalCommand : Obligations.UndefinedOpcodesRaiseIllegalCommand := by
  intro s hs hf
  have hundef {w : Command} (h : Opcode.ofByte (opField w) = none) : present w s = .next (s.answeredFault 0x11) :=
    present_rejected hs hf (decode_undefined h)
  exact ⟨fun w h => hundef (ofByte_undefined h), hundef rfl, hundef rfl⟩

/-- Settles O7: the mask of the reserved bits is what the decoder checks first. -/
theorem reservedBitsRaiseIllegalCommand : Obligations.ReservedBitsRaiseIllegalCommand := by
  intro o w s hs hf hop hne
  have hz : o.reservedZero w = false := Bool.eq_false_iff.2 (mt (reservedMask_iff o w).2 hne)
  exact present_rejected hs hf (decode_reservedBits hop hz)

theorem usesChannel_of_mem {o : Opcode}
    (h : o ∈ [.enable, .setDir, .setSpeed, .move, .getStepCount, .program, .start, .stop, .mapSpeed, .evtEnable]) :
    o.usesChannel = true := by
  cases o <;> revert h <;> decide

/-- Settles O8: the reserved bits pass, the channel does not. -/
theorem channelsAboveOneRaiseInvalidChannel : Obligations.ChannelsAboveOneRaiseInvalidChannel := by
  intro o w s hs hf ho hop hzero hch
  have hz := (reservedMask_iff o w).1 hzero
  exact present_rejected hs hf (decode_invalidChannel hop hz (usesChannel_of_mem ho) hch)

/-! The word that a step presents. -/

/-- At the host's turn a ready port is presented the first word (20_memory.md R56). -/
theorem step_word {s : State} {w : Command} {rest : List Command} (ht : s.nextTurn = .host) (hn : s.NoHandlerDue)
    (hs : s.seq = .idle) (hp : s.port = w :: rest) : step s = present w { s.endTurn with port := rest } := by
  rw [step_host ht hn, hostTurn_word ((endTurn_seq s).trans hs) ((endTurn_port s).trans hp)]

theorem decode_of_decodeTableWord {nbits w : Nat} {i : Instr} (h : decodeTableWord nbits w = some i) :
    decode (tableWord nbits w) = .ok i := by
  unfold decodeTableWord at h
  split at h
  · next hd => rw [hd, Option.some.inj h]
  · cases h

/-- No handler goes before a placed word (log entry 10). -/
theorem offerWord_noHandlerDue (s : State) (w : Command) : (s.offerWord w).NoHandlerDue := by
  have masked : ∀ ip ie : Bool, ((ip && !ie) && ie) = false := by decide
  exact ⟨masked _ _, masked _ _⟩

/-- Settles O31: a placed word meets what the first half asks of a word at the port. -/
theorem stepRunsTheDecodedCommand : Obligations.StepRunsTheDecodedCommand := by
  refine ⟨fun s w rest i ht hn hs hp hd => ?_, fun s nbits w i h => ?_⟩
  · rw [step_word ht hn hs hp, present_of_decode_ok hd]
  · have hstep : step (s.withFetchWord nbits w) = present (tableWord nbits w)
        { s.withFetchWord nbits w with port := s.port, turns := s.turns } :=
      step_word rfl (offerWord_noHandlerDue s _) rfl rfl
    rw [hstep, present_of_decode_ok (decode_of_decodeTableWord h)]

/-! The micro-steps of a command (30_encoding.md R72). -/

theorem microStepsLeft_acceptedSeq (i : Instr) : (acceptedSeq i).microStepsLeft = i.furtherMicroSteps := by
  cases i with
  | move c steps =>
    have haccepted : acceptedSeq (.move c steps) =
        if steps.natAbs = 0 then .idle else .burst c steps.natAbs .high := rfl
    rw [haccepted]
    split_ifs with h
    · exact (congrArg (2 * ·) h).symm
    · rfl
  | _ => rfl

theorem microStepsLeft_eq_zero_iff {q : Seq} (h : q.BurstPositive) : q.microStepsLeft = 0 ↔ q = .idle := by
  refine ⟨fun hz => ?_, fun e => e ▸ rfl⟩
  by_contra hq
  have hleft := microStepsLeft_next h hq
  omega

@[simp] theorem enterSection_port (s : State) (c : Channel) : (s.enterSection c).port = s.port := by cases c <;> rfl
@[simp] theorem exitSection_port (s : State) (c : Channel) : (s.exitSection c).port = s.port := by cases c <;> rfl
@[simp] theorem writePulse_port (s : State) (c : Channel) (level : Bool) : (s.writePulse c level).port = s.port := by
  cases c <;> rfl
@[simp] theorem takeEdgeEvent_port (s : State) (c : Channel) : (s.takeEdgeEvent c).port = s.port := by
  cases c <;> rfl

@[simp] theorem timerTurn_port (s : State) (c : Channel) : (s.timerTurn c).port = s.port := by
  unfold State.timerTurn State.tick
  split_ifs <;> simp

/-- A further micro-step reads no word (30_encoding.md R72). -/
theorem continueCommand_port (s : State) : s.continueCommand.port = s.port := by
  unfold State.continueCommand
  split
  case h_1 => rfl
  case h_2 c i _ => unfold State.snapStep; split_ifs <;> simp
  case h_3 c i _ => unfold State.zeroStep; split_ifs <;> cases c <;> simp
  case h_4 c n phase _ =>
    unfold State.burstStep
    cases phase with
    | high => simp
    | low => dsimp only; split_ifs <;> simp

/-- While a command is in progress no step takes a word from the port (30_encoding.md R72). -/
theorem step_port_inProgress {s t : State} (hs : s.seq ≠ .idle) (h : step s = .next t) : t.port = s.port := by
  rcases step_cases h with ⟨_, rfl⟩ | ⟨_, c, _, rfl⟩ | ⟨_, _, hh⟩ | ⟨c, _, _, rfl⟩ | ⟨c, _, _, rfl⟩
  · exact endTurn_port s
  · rw [takeEdgeEvent_port, afterHandler_port]
  · rw [hostTurn_inProgress (by rwa [endTurn_seq])] at hh
    cases hh
    rw [continueCommand_port, endTurn_port]
  · rw [timerTurn_port, endTurn_port]
  · exact endTurn_port s

/-- Settles O48: the count is a function of the sequencer, which only the host's turn moves. -/
theorem commandsTakeFixedMicroSteps : Obligations.CommandsTakeFixedMicroSteps := by
  refine ⟨fun s t i hr h => by rw [exec_seq hr h, microStepsLeft_acceptedSeq], fun s t hinv hs hreset h => ?_⟩
  refine ⟨step_port_inProgress hs h, fun hhost => ?_, fun hnot => ?_⟩
  · rcases step_seq_inProgress hs h with ⟨ht, _⟩ | ⟨_, _, hq⟩ | ⟨hnot, _⟩
    · exact absurd ht hreset
    · have hpos := hinv.progressInv.positive
      rw [hq]
      exact ⟨microStepsLeft_next hpos hs, microStepsLeft_eq_zero_iff (burstPositive_next hpos)⟩
    · exact absurd hhost hnot
  · rcases step_seq_inProgress hs h with ⟨ht, _⟩ | ⟨ht, hn, _⟩ | ⟨_, hq⟩
    · exact absurd ht hreset
    · exact absurd ⟨ht, hn⟩ hnot
    · exact hq

end Sys2Proof.Machine
end

section
/-! PROOFS. The text of a command is read as its word (30_encoding.md R70): the text is a mnemonic and plain operands,
reading takes them apart again, and each operand is the field that was printed. -/

namespace Sys2Proof

namespace Line

/-- What reading a line looks for: blanks, the comma between operands, the beginning of a comment and of a count of
micro-steps (30_encoding.md R70, R71). -/
def separators : List Char := [' ', '\t', ',', ';', '/']

/-- Text of a mnemonic or an operand as it is printed. -/
structure Plain (t : List Char) : Prop where
  ne_nil : t ≠ []
  not_sep : ∀ ch ∈ t, ch ∉ separators

/-- The operands of a line as they are printed, between commas that a blank follows. -/
def joined (ps : List (List Char)) : List Char := List.intercalate [',', ' '] ps

theorem joined_cons_cons (p q : List Char) (ps : List (List Char)) :
    joined (p :: q :: ps) = p ++ ',' :: ' ' :: joined (q :: ps) := by
  rw [joined, List.intercalate_cons_cons, List.append_assoc]
  rfl

theorem joined_singleton (p : List Char) : joined [p] = p := List.intercalate_singleton

namespace Plain

variable {t : List Char}

theorem notMem (h : Plain t) {sep : Char} (hs : sep ∈ separators) : sep ∉ t :=
  fun hm => h.not_sep sep hm hs

theorem isBlank (h : Plain t) {ch : Char} (hm : ch ∈ t) : Line.isBlank ch = false := by
  have hsep := h.not_sep ch hm
  simp only [separators, List.mem_cons, not_or] at hsep
  simp [Line.isBlank, hsep]

theorem trim (h : Plain t) : Line.trim t = t := trim_of_noBlank fun _ => h.isBlank

theorem exists_first (h : Plain t) : ∃ a l, Line.isBlank a = false ∧ t = a :: l := by
  obtain ⟨a, l, rfl⟩ := List.exists_cons_of_ne_nil h.ne_nil
  exact ⟨a, l, h.isBlank (by simp), rfl⟩

theorem exists_last (h : Plain t) : ∃ l b, Line.isBlank b = false ∧ t = l ++ [b] :=
  ⟨t.dropLast, t.getLast h.ne_nil, h.isBlank (t.getLast_mem h.ne_nil), (List.dropLast_append_getLast h.ne_nil).symm⟩

end Plain

/-- Printed operands begin with a character that is no blank. -/
theorem joined_exists_first {ps : List (List Char)} (hne : ps ≠ []) (h : ∀ p ∈ ps, Plain p) :
    ∃ a l, isBlank a = false ∧ joined ps = a :: l := by
  obtain ⟨p, ps, rfl⟩ := List.exists_cons_of_ne_nil hne
  obtain ⟨a, l, ha, rfl⟩ := (h p (by simp)).exists_first
  cases ps with
  | nil => exact ⟨a, l, ha, joined_singleton _⟩
  | cons q ps => exact ⟨a, _, ha, joined_cons_cons _ _ _⟩

/-- Printed operands end in a character that is no blank. -/
theorem joined_exists_last {ps : List (List Char)} (hne : ps ≠ []) (h : ∀ p ∈ ps, Plain p) :
    ∃ l b, isBlank b = false ∧ joined ps = l ++ [b] := by
  induction ps with
  | nil => exact absurd rfl hne
  | cons p ps ih =>
    cases ps with
    | nil => rw [joined_singleton]; exact (h p (by simp)).exists_last
    | cons q ps =>
      obtain ⟨l, b, hb, hl⟩ := ih (by simp) fun x hx => h x (by simp [hx])
      exact ⟨p ++ ',' :: ' ' :: l, b, hb, by rw [joined_cons_cons, hl]; simp⟩

theorem notMem_joined {ps : List (List Char)} (h : ∀ p ∈ ps, Plain p) {sep : Char} (hs : sep ∈ separators)
    (hcomma : sep ≠ ',') (hblank : sep ≠ ' ') : sep ∉ joined ps := by
  induction ps with
  | nil => exact List.not_mem_nil
  | cons p ps ih =>
    have hp := (h p (by simp)).notMem hs
    cases ps with
    | nil => rwa [joined_singleton]
    | cons q ps =>
      rw [joined_cons_cons]
      simp [hp, hcomma, hblank, ih fun x hx => h x (by simp [hx])]

theorem operands_go_ne_nil (t : List Char) : operands.go t ≠ [] := by
  cases t with
  | nil => exact List.cons_ne_nil _ _
  | cons ch t =>
    rw [operands.go]
    split_ifs
    · exact List.cons_ne_nil _ _
    · split <;> exact List.cons_ne_nil _ _

/-- A blank before the operands is trimmed away. -/
theorem map_trim_go_blank (t : List Char) : (operands.go (' ' :: t)).map trim = (operands.go t).map trim := by
  obtain ⟨p, ps, hgo⟩ := List.exists_cons_of_ne_nil (operands_go_ne_nil t)
  have hcons : operands.go (' ' :: t) = (' ' :: p) :: ps := by rw [operands.go, hgo]; rfl
  have hblank : trim (' ' :: p) = trim p := by simp [trim, isBlank]
  rw [hcons, hgo, List.map_cons, List.map_cons, hblank]

/-- Reading takes printed operands apart again. -/
theorem map_trim_go_joined {ps : List (List Char)} (hne : ps ≠ []) (h : ∀ p ∈ ps, Plain p) :
    (operands.go (joined ps)).map trim = ps := by
  induction ps with
  | nil => exact absurd rfl hne
  | cons p ps ih =>
    have hp := h p (by simp)
    have hcomma := hp.notMem (sep := ',') (by decide)
    cases ps with
    | nil => rw [joined_singleton, operands_go_of_notMem hcomma, List.map_singleton, hp.trim]
    | cons q ps =>
      rw [joined_cons_cons, operands_go_append hcomma, List.map_cons, hp.trim, map_trim_go_blank,
        ih (by simp) fun x hx => h x (by simp [hx])]

theorem operands_joined {ps : List (List Char)} (hne : ps ≠ []) (h : ∀ p ∈ ps, Plain p) :
    (operands (joined ps)).map trim = ps := by
  obtain ⟨a, l, ha, hl⟩ := joined_exists_first hne h
  have hgo := map_trim_go_joined hne h
  rw [hl] at hgo ⊢
  rw [operands_cons ha, hgo]

/-- A line of a mnemonic and printed operands is the command that these stand for. -/
theorem read_joined {name : List Char} {ps : List (List Char)} (hname : Plain name) (hdot : name.head? ≠ some '.')
    (hangle : name.head? ≠ some '<') (hne : ps ≠ []) (h : ∀ p ∈ ps, Plain p) :
    read (name ++ ' ' :: joined ps) = (assembleWord name ps).map (command · none) := by
  have hclean {sep : Char} (hs : sep ∈ separators) (hcomma : sep ≠ ',') (hblank : sep ≠ ' ') :
      sep ∉ name ++ ' ' :: joined ps := by
    simp [hname.notMem hs, hblank, notMem_joined h hs hcomma hblank]
  have htrim : trim (name ++ ' ' :: joined ps) = name ++ ' ' :: joined ps := by
    obtain ⟨a, n, ha, hn⟩ := hname.exists_first
    obtain ⟨l, b, hb, hl⟩ := joined_exists_last hne h
    have hends : name ++ ' ' :: joined ps = a :: (n ++ ' ' :: l) ++ [b] := by rw [hn, hl]; simp
    rw [hends, trim_eq ha hb]
  have hcomment : ';' ∉ name ++ ' ' :: joined ps := hclean (by decide) (by decide) (by decide)
  have hcount : '/' ∉ name ++ ' ' :: joined ps := hclean (by decide) (by decide) (by decide)
  rw [read_command hcomment hcount htrim (hname.notMem (by decide)) rfl hdot hangle hname.ne_nil,
    operands_joined hne h]

/-! The printed operands. -/

theorem plain_channelName (c : Channel) : Plain c.name.toList := by
  cases c <;> constructor <;> simp [separators, Channel.name]

theorem plain_flagText (b : Bool) : Plain (flagText b).toList := by
  cases b <;> constructor <;> simp [separators, flagText]

theorem plain_forwardText (b : Bool) : Plain (if b then "fwd" else "rev").toList := by
  cases b <;> constructor <;> simp [separators]

theorem not_sep_of_isDigit {ch : Char} (h : ch.isDigit = true) : ch ∉ separators := by
  intro hm
  simp only [separators, List.mem_cons, List.not_mem_nil, or_false] at hm
  rcases hm with rfl | rfl | rfl | rfl | rfl <;> exact absurd h (by decide)

theorem plain_toDigits (n : Nat) : Plain (Nat.toDigits 10 n) :=
  ⟨Nat.toDigits_ne_nil, fun _ hm => not_sep_of_isDigit (isDigit_of_mem hm)⟩

theorem toList_repr_ofNat (n : Nat) : (Int.ofNat n).repr.toList = Nat.toDigits 10 n := Nat.toList_repr

theorem toList_repr_negSucc (n : Nat) : (Int.negSucc n).repr.toList = '-' :: Nat.toDigits 10 (n + 1) := by
  have h : (Int.negSucc n).repr = "-" ++ (n + 1).repr := rfl
  rw [h, String.toList_append, Nat.toList_repr]
  rfl

theorem plain_repr (z : Int) : Plain z.repr.toList := by
  cases z with
  | ofNat n => rw [toList_repr_ofNat]; exact plain_toDigits n
  | negSucc n =>
    rw [toList_repr_negSucc]
    exact ⟨List.cons_ne_nil _ _, List.forall_mem_cons.2 ⟨by decide, (plain_toDigits (n + 1)).not_sep⟩⟩

@[simp] theorem channel_name (c : Channel) : channel c.name.toList = some (channelByte c) := by
  cases c <;> decide

@[simp] theorem flag_flagText (b : Bool) : flag "off" "on" (flagText b).toList = some (flagField b) := by
  cases b <;> decide

@[simp] theorem flag_forwardText (b : Bool) :
    flag "rev" "fwd" (if b then "fwd" else "rev").toList = some (flagField b) := by
  cases b <;> decide

theorem signedHalf_repr {z : Int} (h : fitsSigned16 z = true) :
    signedHalf z.repr.toList = some (BitVec.ofInt 16 z) := by
  obtain ⟨hlo, hhi⟩ : -32768 ≤ z ∧ z ≤ 32767 := by simpa [fitsSigned16] using h
  cases z with
  | ofNat n =>
    rw [toList_repr_ofNat, signedHalf_toDigits (Int.ofNat_le.1 hhi)]
    rfl
  | negSucc n =>
    rw [toList_repr_negSucc, signedHalf_minus (by omega)]
    rfl

theorem numberBelow_toDigits {bound n : Nat} (h : n < bound) : numberBelow bound (Nat.toDigits 10 n) = some n := by
  rw [numberBelow, number_toDigits, Option.bind_some, if_pos h]

end Line

/-- The mnemonic of a command (30_encoding.md R61, R70). -/
def Instr.mnemonic : Instr → String
  | .init => "INIT"
  | .enable _ _ => "ENABLE"
  | .setDir _ _ => "SET_DIR"
  | .setSpeed _ _ => "SET_SPEED"
  | .setSpeedBoth _ _ => "SET_SPEED_BOTH"
  | .move _ _ => "MOVE"
  | .stopAll => "STOP_ALL"
  | .resetCounts => "RESET_COUNTS"
  | .getStepCount _ => "GET_STEP_COUNT"
  | .program _ _ _ => "PROGRAM"
  | .start _ => "START"
  | .stop _ => "STOP"
  | .mapSpeed _ _ => "MAP_SPEED"
  | .evtEnable _ _ => "EVT_ENABLE"

/-- The operands of a command as they are printed (30_encoding.md R70). -/
def Instr.operandTexts : Instr → List String
  | .init | .stopAll | .resetCounts => []
  | .getStepCount c | .start c | .stop c => [c.name]
  | .enable c flag | .evtEnable c flag => [c.name, flagText flag]
  | .setDir c forward => [c.name, if forward then "fwd" else "rev"]
  | .setSpeed c rpm | .mapSpeed c rpm => [c.name, toString rpm]
  | .setSpeedBoth rpmL rpmR => [toString rpmL, toString rpmR]
  | .move c steps => [c.name, toString steps]
  | .program c top ps => [c.name, toString top, toString ps.toNat]

namespace Line

theorem toList_one {name start a : String} (h : start.toList = name.toList ++ [' ']) :
    (start ++ a).toList = name.toList ++ ' ' :: joined [a.toList] := by
  simp [h, joined_singleton]

theorem toList_two {name start a b : String} (h : start.toList = name.toList ++ [' ']) :
    (start ++ a ++ ", " ++ b).toList = name.toList ++ ' ' :: joined [a.toList, b.toList] := by
  simp [h, joined_cons_cons, joined_singleton]

theorem toList_three {name start a b c : String} (h : start.toList = name.toList ++ [' ']) :
    (start ++ a ++ ", " ++ b ++ ", " ++ c).toList = name.toList ++ ' ' :: joined [a.toList, b.toList, c.toList] := by
  simp [h, joined_cons_cons, joined_singleton]

/-- A command with operands is printed as a mnemonic, a blank and the operands. -/
theorem text_toList {i : Instr} (h : i.operandTexts ≠ []) :
    i.text.toList = i.mnemonic.toList ++ ' ' :: joined (i.operandTexts.map String.toList) := by
  cases i with
  | init | stopAll | resetCounts => exact absurd rfl h
  | getStepCount | start | stop => exact toList_one (by simp [Instr.mnemonic])
  | program => exact toList_three (by simp [Instr.mnemonic])
  | _ => exact toList_two (by simp [Instr.mnemonic])

theorem plain_mnemonic (i : Instr) : Plain i.mnemonic.toList := by
  cases i <;> constructor <;> simp [separators, Instr.mnemonic]

theorem mnemonic_head (i : Instr) :
    i.mnemonic.toList.head? ≠ some '.' ∧ i.mnemonic.toList.head? ≠ some '<' := by
  cases i <;> simp [Instr.mnemonic]

theorem plain_operandTexts (i : Instr) : ∀ p ∈ i.operandTexts.map String.toList, Plain p := by
  cases i <;>
    simp [Instr.operandTexts, plain_channelName, plain_flagText, plain_forwardText, plain_toDigits, plain_repr]

/-- Mnemonic and printed operands give the command's word back. -/
theorem assembleWord_operandTexts {i : Instr} (h : i.wellFormed = true) :
    assembleWord i.mnemonic.toList (i.operandTexts.map String.toList) = some (encode i) := by
  cases i with
  | init | stopAll | resetCounts => rfl
  | getStepCount c | start c | stop c | enable c flag | setDir c flag | evtEnable c flag =>
    simp [assembleWord, word, Instr.mnemonic, Instr.operandTexts, encode, Opcode.number]
  | setSpeed c rpm | mapSpeed c rpm =>
    have hrpm := half_toDigits (of_decide_eq_true h)
    simp [assembleWord, word, Instr.mnemonic, Instr.operandTexts, encode, Opcode.number, hrpm]
  | setSpeedBoth rpmL rpmR =>
    obtain ⟨hl, hr⟩ := Bool.and_eq_true_iff.1 h
    have hrpmL := half_toDigits (of_decide_eq_true hl)
    have hrpmR := half_toDigits (of_decide_eq_true hr)
    simp [assembleWord, word, Instr.mnemonic, Instr.operandTexts, encode, Opcode.number, hrpmL, hrpmR]
  | move c steps =>
    simp [assembleWord, word, Instr.mnemonic, Instr.operandTexts, encode, Opcode.number, signedHalf_repr h]
  | program c top ps =>
    have htop := half_toDigits (of_decide_eq_true h)
    have hps := numberBelow_toDigits ps.isLt
    simp [assembleWord, word, Instr.mnemonic, Instr.operandTexts, encode, Opcode.number, htop, hps]

end Line

/-- Settles O3: a command without operands is read by evaluating its line, every other one as its mnemonic and its
printed operands. -/
theorem assembledTextIsTheEncoding : Obligations.AssembledTextIsTheEncoding := by
  intro i hi
  by_cases hne : i.operandTexts = []
  · cases i with
    | init | stopAll | resetCounts => rfl
    | _ => exact absurd hne (List.cons_ne_nil _ _)
  · have hps : i.operandTexts.map String.toList ≠ [] := mt List.map_eq_nil_iff.1 hne
    obtain ⟨hdot, hangle⟩ := Line.mnemonic_head i
    rw [assemble, Line.text_toList hne, Line.read_joined (Line.plain_mnemonic i) hdot hangle hps
      (Line.plain_operandTexts i), Line.assembleWord_operandTexts hi]
    rfl

end Sys2Proof
end

section
/-! PROOFS. The order in which a presented word's exceptions are raised (30_encoding.md R64), the same for every
opcode. -/

namespace Sys2Proof.Machine

/-- A latched fault refuses every word, valid or not (60_exceptions.md R123). -/
theorem present_faulted (w : Command) {s : State} (hs : s.seq = .idle) (hf : s.fault ≠ 0) :
    present w s = .next s.answeredRefusal := by
  cases hd : decode w with
  | ok i => rw [present_of_decode_ok hd, exec_faulted i hs hf]
  | error e => rw [present_of_decode_error hd, rejectWord_faulted e hs hf]

/-- Assembling an opcode other than `INIT`'s gives another command than `INIT`. -/
theorem assemble_ne_init {o : Opcode} (ho : o ≠ .init) (c : Channel) (a b : Half) : o.assemble c a b ≠ .init :=
  fun h => ho ((opcode_assemble o c a b).symm.trans (congrArg Instr.opcode h))

theorem exceptionsInOrder (o : Opcode) : ExceptionsInOrder o := by
  intro w s hop hs
  refine ⟨present_faulted w hs, fun hf hne => ?_, fun hf hzero hu hch => ?_, fun hf hzero hch hi ho => ?_⟩
  · exact reservedBitsRaiseIllegalCommand o w s hs hf hop hne
  · have hz := (reservedMask_iff o w).1 hzero
    exact present_rejected hs hf (decode_invalidChannel hop hz hu hch)
  · have hz := (reservedMask_iff o w).1 hzero
    rw [present_of_decode_ok (decode_accepted hop hz hch)]
    exact exec_uninitialised _ hs hf hi (assemble_ne_init ho _ _ _)

end Sys2Proof.Machine
end

section
/-! PROOFS. The mapper (40_mapper.md): its quotient, which speeds it rejects (R78), the range of what it answers (R73),
and the command that only asks it (R80). -/

namespace Sys2Proof.Machine

/-! The divisor and the code in use (R75). -/

/-- Well-formed parameters give the code in use the divisor in use (00_scope.md R8). -/
theorem divisor_codeInUse_eq {p : Config.Params} (hp : p.WellFormed) (c : Channel) (rpm : Nat) :
    p.divisor c (codeInUse p c rpm) = some (divisorInUse p c rpm) := by
  obtain ⟨_, _, _, _, _, _, _, _, _, _, hhigh, hlow, hright, _⟩ := hp
  cases c <;> dsimp only [codeInUse, divisorInUse]
  · split_ifs
    · exact hlow
    · exact hhigh
  · exact hright

theorem divisor_zero (p : Config.Params) (c : Channel) : p.divisor c 0 = none := by
  cases c <;> rfl

/-- A code that selects a divisor is one of 1 to 7 (10_state.md R22). -/
theorem toNat_pos_of_divisor {p : Config.Params} {c : Channel} {ps : Code} {d : Nat} (h : p.divisor c ps = some d) :
    1 ≤ ps.toNat := by
  rw [Nat.one_le_iff_ne_zero]
  intro h0
  obtain rfl : ps = 0 := BitVec.eq_of_toNat_eq h0
  rw [divisor_zero] at h
  cases h

/-- Settles O28: clamping bounds the target, and the code selects a divisor, so it is not 0. -/
theorem mapAnswersInRange : Obligations.MapAnswersInRange := by
  intro p c rpm top ps clamped hp h
  obtain ⟨_, _, htop, hps, _⟩ := mapSpeed_setting h
  have hdiv : p.divisor c ps = some (divisorInUse p c rpm) := by rw [hps, divisor_codeInUse_eq hp]
  exact ⟨htop ▸ Nat.min_le_right _ _, toNat_pos_of_divisor hdiv, Nat.le_of_lt_succ ps.isLt, hdiv, hps⟩

/-! The quotient (R74, R76). -/

theorem stepFreq_eq_zero_iff (p : Config.Params) (rpm : Nat) : stepFreq p rpm = 0 ↔ rpm * p.stepsPerRev < 60 :=
  Nat.div_eq_zero_iff_lt (by decide)

theorem quotient_eq_zero_iff (p : Config.Params) {freq div : Nat} (hf : 0 < freq) (hd : 0 < div) :
    quotient p freq div = 0 ↔ p.baseClock < 2 * freq * div :=
  Nat.div_eq_zero_iff_lt (by positivity)

/-- The quotient is rounded down. -/
theorem quotient_mul_le (p : Config.Params) (freq div : Nat) :
    quotient p freq div * (2 * freq * div) ≤ p.baseClock :=
  Nat.div_mul_le_self _ _

theorem lt_succ_quotient_mul (p : Config.Params) {freq div : Nat} (hf : 0 < freq) (hd : 0 < div) :
    p.baseClock < (quotient p freq div + 1) * (2 * freq * div) := by
  rw [Nat.mul_comm]
  exact Nat.lt_mul_div_succ _ (by positivity)

/-- The two ways for a speed to be rejected. -/
theorem mapSpeed_invalidSpeed_iff (p : Config.Params) (c : Channel) (rpm : Nat) :
    mapSpeed p c rpm = .invalidSpeed ↔
      stepFreq p rpm = 0 ∨ quotient p (stepFreq p rpm) (divisorInUse p c rpm) = 0 := by
  unfold mapSpeed
  dsimp only
  rw [regime_eq]
  split_ifs with h1 h2
  · simp [h1]
  · simp [h2]
  · simp [h1, h2]

/-- Settles O29: the quotient is 0 exactly if the rate is out of reach, and speed 0 is no such rate. -/
theorem mapRejectsExactlyUnreachableSpeeds : Obligations.MapRejectsExactlyUnreachableSpeeds := by
  intro p c rpm hp
  rw [mapSpeed_invalidSpeed_iff, ← stepFreq_eq_zero_iff]
  refine or_congr_right' fun hf => ?_
  exact quotient_eq_zero_iff p (Nat.pos_of_ne_zero hf) (divisorInUse_pos hp c rpm)

/-- Settles O30: an unclamped target is one below the quotient, a clamped one at least two below it. -/
theorem mapTargetIsTheRoundedQuotient : Obligations.MapTargetIsTheRoundedQuotient := by
  intro p c rpm top ps clamped hp h
  obtain ⟨hf, hq, htop, _, hclamp⟩ := mapSpeed_setting h
  have hle := quotient_mul_le p (stepFreq p rpm) (divisorInUse p c rpm)
  have hlt := lt_succ_quotient_mul p (Nat.pos_of_ne_zero hf) (divisorInUse_pos hp c rpm)
  refine ⟨fun hno => ?_, fun hyes => ?_⟩
  · have hfits := of_decide_eq_false (hclamp.symm.trans hno)
    have hsucc : quotient p (stepFreq p rpm) (divisorInUse p c rpm) = top + 1 := by omega
    rw [hsucc] at hle hlt
    exact ⟨hle, hlt⟩
  · have habove := of_decide_eq_true (hclamp.symm.trans hyes)
    have hmul := Nat.mul_le_mul_right (2 * stepFreq p rpm * divisorInUse p c rpm)
      (show topMax c + 2 ≤ quotient p (stepFreq p rpm) (divisorInUse p c rpm) by omega)
    exact ⟨by omega, hmul.trans hle⟩

/-! `MAP_SPEED` (R80). -/

/-- At a ready port a response writes `status` and `value` only. -/
theorem respond_idle {s : State} (h : s.seq = .idle) (st : Byte) (v : Word) :
    s.respond st v = { s with status := st, value := v } := by
  rw [State.respond, h]

theorem exec_mapSpeed_invalidSpeed {s : State} {c : Channel} {rpm : Nat} (hr : s.Ready)
    (h : mapSpeed s.config c rpm = .invalidSpeed) :
    exec (.mapSpeed c rpm) s = .next { s with status := 0x02, value := 0 } := by
  rw [exec, execMapSpeed, ifReady_ready hr, h, ← respond_idle hr.1]
  rfl

theorem exec_mapSpeed_setting {s : State} {c : Channel} {rpm top : Nat} {ps : Code} {clamped : Bool} (hr : s.Ready)
    (h : mapSpeed s.config c rpm = .setting top ps clamped) :
    exec (.mapSpeed c rpm) s =
      .next { s with status := if clamped then 0x01 else 0x00, value := packSetting ps top } := by
  rw [exec, execMapSpeed, ifReady_ready hr, h, ← respond_idle hr.1]
  cases clamped <;> rfl

theorem two_pow_width_le (c : Channel) : 2 ^ width c ≤ 65536 := by
  cases c <;> decide

/-- Every target fits the response's 16 bits (30_encoding.md R59). -/
theorem mapSpeed_top_lt_65536 {p : Config.Params} {c : Channel} {rpm top : Nat} {ps : Code} {clamped : Bool}
    (h : mapSpeed p c rpm = .setting top ps clamped) : top < 65536 :=
  (mapSpeed_top_lt h).trans_le (two_pow_width_le c)

/-- Settles O26: the response is what the mapper answers, packed. -/
theorem mapSpeedOnlyAnswers : Obligations.MapSpeedOnlyAnswers := by
  refine ⟨exceptionsInOrder .mapSpeed, rfl, fun s c rpm hr h => ?_, fun s c rpm top ps clamped hr h => ?_,
    fun s hr hcfg => ?_⟩
  · exact exec_mapSpeed_invalidSpeed hr h
  · exact ⟨_, exec_mapSpeed_setting hr h, rfl, packSetting_toNat ps top (mapSpeed_top_lt_65536 h)⟩
  · have hmap : mapSpeed s.config .left 600 = .setting 61 3 false := by
      rw [hcfg]
      decide
    exact exec_mapSpeed_setting hr hmap

end Sys2Proof.Machine
end

section
/-! PROOFS. The pulse channel (41_pulse_channel.md): the timer's period and its run to the wrap (R88, R89,
70_reset_and_hazards.md R149), one step of the timer (R88), and `PROGRAM`, `START` and `STOP` (R85 to R87). -/

namespace Sys2Proof.Machine

/-! What a run of ticks does to one channel. -/

theorem tick_of_ne_cmp {w : Nat} {k : Chan w} (h : k.cnt ≠ k.cmp) : k.tick = { k with cnt := k.nextCnt } := by
  rw [tick_eq, if_neg h]

theorem tick_of_eq_cmp {w : Nat} {k : Chan w} (h : k.cnt = k.cmp) :
    k.tick = { k with pulse := !k.pulse, ip := true, ovr := k.ovr || k.ip, cnt := k.nextCnt } := by
  rw [tick_eq, if_pos h]

@[simp] theorem tick_cnt {w : Nat} (k : Chan w) : k.tick.cnt = k.nextCnt := by
  rw [tick_eq]
  split_ifs <;> rfl

@[simp] theorem tick_top {w : Nat} (k : Chan w) : k.tick.top = k.top := by
  rw [tick_eq]
  split_ifs <;> rfl

@[simp] theorem tick_cmp {w : Nat} (k : Chan w) : k.tick.cmp = k.cmp := by
  rw [tick_eq]
  split_ifs <;> rfl

@[simp] theorem iterate_tick_top {w : Nat} (k : Chan w) (n : Nat) : (Chan.tick^[n] k).top = k.top := by
  induction n with
  | zero => rfl
  | succ n ih => rw [Function.iterate_succ_apply', tick_top, ih]

@[simp] theorem iterate_tick_cmp {w : Nat} (k : Chan w) (n : Nat) : (Chan.tick^[n] k).cmp = k.cmp := by
  induction n with
  | zero => rfl
  | succ n ih => rw [Function.iterate_succ_apply', tick_cmp, ih]

theorem iterate_tick_succ_cnt_toNat {w : Nat} (k : Chan w) (n : Nat) :
    (Chan.tick^[n + 1] k).cnt.toNat =
      if (Chan.tick^[n] k).cnt.toNat = k.top.toNat ∨ (Chan.tick^[n] k).cnt.toNat + 1 = 2 ^ w then 0
      else (Chan.tick^[n] k).cnt.toNat + 1 := by
  rw [Function.iterate_succ_apply', tick_cnt, nextCnt_toNat, iterate_tick_top]

/-- In steady state the counter runs through `0 .. top` over and over. -/
theorem iterate_tick_cnt_toNat {w : Nat} {k : Chan w} (h : k.cnt.toNat ≤ k.top.toNat) (n : Nat) :
    (Chan.tick^[n] k).cnt.toNat = (k.cnt.toNat + n) % (k.top.toNat + 1) := by
  induction n with
  | zero => exact (Nat.mod_eq_of_lt (Nat.lt_succ_of_le h)).symm
  | succ n ih =>
    have htop := k.top.isLt
    have hlt : (k.cnt.toNat + n) % (k.top.toNat + 1) < k.top.toNat + 1 := Nat.mod_lt _ (Nat.succ_pos _)
    rw [iterate_tick_succ_cnt_toNat, ih, ← Nat.add_assoc, ← Nat.mod_add_mod _ _ 1]
    split_ifs with hend
    · rw [show (k.cnt.toNat + n) % (k.top.toNat + 1) = k.top.toNat by omega, Nat.mod_self]
    · exact (Nat.mod_eq_of_lt (by omega)).symm

/-- A counter above `top` counts up until it wraps. -/
theorem iterate_tick_cnt_toNat_of_above {w : Nat} {k : Chan w} (h : k.top.toNat < k.cnt.toNat) {n : Nat}
    (hn : n < 2 ^ w - k.cnt.toNat) : (Chan.tick^[n] k).cnt.toNat = k.cnt.toNat + n := by
  induction n with
  | zero => rfl
  | succ n ih => rw [iterate_tick_succ_cnt_toNat, ih (by omega), if_neg (by omega), Nat.add_assoc]

/-- On the way to the wrap the counter stays above `cmp`. -/
theorem iterate_tick_cnt_ne_cmp_of_above {w : Nat} {k : Chan w} (hcmp : k.cmp.toNat ≤ k.top.toNat)
    (h : k.top.toNat < k.cnt.toNat) {n : Nat} (hn : n < 2 ^ w - k.cnt.toNat) : (Chan.tick^[n] k).cnt ≠ k.cmp := by
  intro he
  have hat := iterate_tick_cnt_toNat_of_above h hn
  rw [he] at hat
  omega

theorem iterate_tick_cnt_at_wrap {w : Nat} {k : Chan w} (h : k.top.toNat < k.cnt.toNat) :
    (Chan.tick^[2 ^ w - k.cnt.toNat] k).cnt = 0 := by
  have hlt := k.cnt.isLt
  obtain ⟨n, hn⟩ : ∃ n, 2 ^ w - k.cnt.toNat = n + 1 := ⟨2 ^ w - k.cnt.toNat - 1, by omega⟩
  apply BitVec.eq_of_toNat_eq
  rw [hn, iterate_tick_succ_cnt_toNat, iterate_tick_cnt_toNat_of_above (n := n) h (by omega), if_pos (by omega)]
  exact BitVec.toNat_zero.symm

/-- Ticks of which none finds the counter at `cmp` write the counter only. -/
theorem iterate_tick_of_no_match {w : Nat} {k : Chan w} {n : Nat}
    (h : ∀ i, i < n → (Chan.tick^[i] k).cnt ≠ k.cmp) : ∃ x, Chan.tick^[n] k = { k with cnt := x } := by
  induction n with
  | zero => exact ⟨k.cnt, rfl⟩
  | succ n ih =>
    have hne := h n (Nat.lt_succ_self n)
    obtain ⟨x, hx⟩ := ih fun i hi => h i (Nat.lt_succ_of_lt hi)
    rw [hx] at hne
    rw [Function.iterate_succ_apply', hx, tick_of_ne_cmp hne]
    exact ⟨_, rfl⟩

/-- Ticks of which just one finds the counter at `cmp` toggle the output and raise the event once. -/
theorem iterate_tick_of_one_match {w : Nat} {k : Chan w} {n m : Nat} (hm : m < n)
    (hmatch : (Chan.tick^[m] k).cnt = k.cmp) (hone : ∀ i, i < n → i ≠ m → (Chan.tick^[i] k).cnt ≠ k.cmp) :
    ∃ x, Chan.tick^[n] k =
      { k with pulse := !k.pulse, ip := true, ovr := k.ovr || k.ip, cnt := x } := by
  obtain ⟨d, rfl⟩ : ∃ d, n = d + (m + 1) := ⟨n - (m + 1), by omega⟩
  obtain ⟨x, hbefore⟩ := iterate_tick_of_no_match (n := m) fun i hi => hone i (by omega) (by omega)
  obtain ⟨y, hafter⟩ : ∃ y, Chan.tick^[d] (Chan.tick^[m + 1] k) = { Chan.tick^[m + 1] k with cnt := y } := by
    refine iterate_tick_of_no_match fun i hi => ?_
    rw [iterate_tick_cmp, ← Function.iterate_add_apply]
    exact hone (i + (m + 1)) (by omega) (by omega)
  rw [hbefore] at hmatch
  rw [Function.iterate_add_apply, hafter, Function.iterate_succ_apply', hbefore, tick_of_eq_cmp hmatch]
  exact ⟨y, rfl⟩

/-- Among the `top + 1` ticks of a period one finds the counter at `cmp`. -/
theorem exists_match_in_period {w : Nat} {k : Chan w} (hcmp : k.cmp.toNat ≤ k.top.toNat)
    (hcnt : k.cnt.toNat ≤ k.top.toNat) : ∃ m, m < k.top.toNat + 1 ∧ (Chan.tick^[m] k).cnt = k.cmp := by
  have hmod := Nat.mod_eq_of_lt (Nat.lt_succ_of_le hcmp)
  by_cases hle : k.cnt.toNat ≤ k.cmp.toNat
  · refine ⟨k.cmp.toNat - k.cnt.toNat, by omega, BitVec.eq_of_toNat_eq ?_⟩
    rw [iterate_tick_cnt_toNat hcnt, Nat.add_sub_cancel' hle, hmod]
  · refine ⟨k.cmp.toNat + (k.top.toNat + 1) - k.cnt.toNat, by omega, BitVec.eq_of_toNat_eq ?_⟩
    rw [iterate_tick_cnt_toNat hcnt, Nat.add_sub_cancel' (by omega), Nat.add_mod_right, hmod]

/-- No two ticks of a period find the counter at the same value. -/
theorem iterate_tick_cnt_injective {w : Nat} {k : Chan w} (h : k.cnt.toNat ≤ k.top.toNat) {i m : Nat}
    (hi : i < k.top.toNat + 1) (hm : m < k.top.toNat + 1)
    (he : (Chan.tick^[i] k).cnt = (Chan.tick^[m] k).cnt) : i = m := by
  have hmod := congrArg BitVec.toNat he
  rw [iterate_tick_cnt_toNat h, iterate_tick_cnt_toNat h] at hmod
  exact (Nat.ModEq.add_left_cancel' _ hmod).eq_of_lt_of_lt hi hm

/-- Settles O33: one tick of the period, and no other, finds the counter at `cmp`; the counter comes round. -/
theorem timerPeriodTogglesOnce : Obligations.TimerPeriodTogglesOnce := by
  intro w k hcmp hcnt hip
  obtain ⟨m, hm, hmatch⟩ := exists_match_in_period hcmp hcnt
  obtain ⟨x, hx⟩ := iterate_tick_of_one_match hm hmatch fun i hi hne he =>
    hne (iterate_tick_cnt_injective hcnt hi hm (he.trans hmatch.symm))
  have hround : x = k.cnt := by
    apply BitVec.eq_of_toNat_eq
    have hlast := iterate_tick_cnt_toNat hcnt (k.top.toNat + 1)
    rwa [hx, Nat.add_mod_right, Nat.mod_eq_of_lt (Nat.lt_succ_of_le hcnt)] at hlast
  rw [hx, hround, hip, Bool.or_false]

/-- Settles O34: above `top`, and so above `cmp`, there is no match until the last tick wraps the counter. -/
theorem counterAboveTopRunsToTheWrap : Obligations.CounterAboveTopRunsToTheWrap := by
  intro w k hcmp habove
  obtain ⟨x, hx⟩ := iterate_tick_of_no_match fun _ hi => iterate_tick_cnt_ne_cmp_of_above hcmp habove hi
  have hwrap := iterate_tick_cnt_at_wrap habove
  rw [hx] at hwrap
  rw [hx, show x = 0 from hwrap]

/-! One step of the timer. -/

/-- The counter after a tick, in numbers. -/
theorem nextCnt_eq_ofNat {w : Nat} (k : Chan w) :
    k.nextCnt = if k.cnt = k.top then 0 else BitVec.ofNat w (k.cnt.toNat + 1) := by
  rw [Chan.nextCnt, add_one_eq_ofNat]

theorem stateTick_of_ne_cmp {s : State} {c : Channel} (h : (s.chan c).cnt ≠ (s.chan c).cmp) :
    s.tick c = s.setChan c (s.chan c).tick := if_neg h

theorem stateTick_of_eq_cmp {s : State} {c : Channel} (h : (s.chan c).cnt = (s.chan c).cmp) :
    s.tick c = (s.setChan c (s.chan c).tick).emit (.toggle c (!(s.chan c).pulse)) := if_pos h

theorem step_timer_running {s : State} {c : Channel} (ht : s.nextTurn = .timer c) (hn : s.NoHandlerDue)
    (hrun : s.Running c) : step s = .next (s.endTurn.tick c) := by
  rw [step_timer ht hn, timerTurn_running]
  rwa [State.Running, endTurn_chan]

theorem step_timer_stopped {s : State} {c : Channel} (ht : s.nextTurn = .timer c) (hn : s.NoHandlerDue)
    (hstop : (s.chan c).cs = 0) : step s = .next s.endTurn := by
  rw [step_timer ht hn, State.timerTurn, if_pos]
  rwa [endTurn_chan]

/-- Settles O32: the channel ticks, the match at `cmp` is traced, and a stopped timer's turn passes. -/
theorem timerTickFollowsItsRule : Obligations.TimerTickFollowsItsRule := by
  intro s c ht hn
  refine ⟨fun hrun hmatch => ?_, fun hrun hne => ?_, step_timer_stopped ht hn⟩
  · have hovr : (if (s.chan c).ip = true then true else (s.chan c).ovr) = ((s.chan c).ovr || (s.chan c).ip) := by
      cases (s.chan c).ip <;> simp
    rw [step_timer_running ht hn hrun, stateTick_of_eq_cmp (by rwa [endTurn_chan]), endTurn_chan,
      tick_of_eq_cmp hmatch, nextCnt_eq_ofNat, hovr, State.emit, setChan_trace, endTurn_trace]
  · rw [step_timer_running ht hn hrun, stateTick_of_ne_cmp (by rwa [endTurn_chan]), endTurn_chan,
      tick_of_ne_cmp hne, nextCnt_eq_ofNat]

/-! `PROGRAM`, `START`, `STOP` at a ready block. -/

/-- A command that writes one channel and responds writes nothing else. -/
theorem setChan_respond_idle {s : State} (h : s.seq = .idle) (c : Channel) (k : Chan (width c)) (st : Byte)
    (v : Word) : (s.setChan c k).respond st v = { s.setChan c k with status := st, value := v } :=
  respond_idle (by rwa [setChan_seq]) st v

theorem exec_program_unusable {s : State} {c : Channel} {ps : Code} (top : Nat) (hr : s.Ready)
    (h : ps = 0 ∨ s.config.divisor c ps = none) : exec (.program c top ps) s = .next (s.answeredFault 0x11) := by
  rw [exec, execProgram, ifReady_ready hr, if_pos h]
  rfl

/-- The status of a clamp, by the target that was asked for. -/
theorem clampStatus_code (c : Channel) (top : Nat) :
    (clampStatus (decide (topMax c < top))).code = if topMax c < top then 0x01 else 0x00 := by
  by_cases h : topMax c < top <;> simp [clampStatus, h, Status.code]

/-- Programming a target in the channel's range. -/
theorem program_eq {w t : Nat} (k : Chan w) (ps : Code) (h : t < 2 ^ w) :
    k.program t ps = { k with top := BitVec.ofNat w t, cmp := BitVec.ofNat w (t / 2), prescaler := ps } := by
  rw [Chan.program, ofNat_ushiftRight_one t h]

theorem exec_program_usable {s : State} {c : Channel} {ps : Code} (top : Nat) (hr : s.Ready) (hps : ps ≠ 0)
    (hdiv : s.config.divisor c ps ≠ none) :
    exec (.program c top ps) s = .next { s.setChan c { s.chan c with
        top := BitVec.ofNat (width c) (min top (topMax c))
        cmp := BitVec.ofNat (width c) (min top (topMax c) / 2)
        prescaler := ps } with
      status := if topMax c < top then 0x01 else 0x00, value := 0 } := by
  have hfits : min top (topMax c) < 2 ^ width c := (Nat.min_le_right _ _).trans_lt (topMax_lt c)
  rw [exec, execProgram, ifReady_ready hr, if_neg (not_or.2 ⟨hps, hdiv⟩), clampTop_eq, program_eq _ _ hfits,
    clampStatus_code, setChan_respond_idle hr.1]

/-- Settles O23: the target is clamped and halved, and an unusable code raises the fault. -/
theorem programWritesTopCmpPrescaler : Obligations.ProgramWritesTopCmpPrescaler := by
  refine ⟨exceptionsInOrder .program, rfl, rfl, fun s c top ps hr h => ?_, fun s c top ps hr hps hdiv => ?_,
    fun s hr hdiv => ?_⟩
  · exact exec_program_unusable top hr h
  · exact exec_program_usable top hr hps hdiv
  · exact exec_program_usable 499 hr (by decide) hdiv

/-- Settles O24: `START` is one write of the clock selection and the response. -/
theorem startCopiesThePrescaler : Obligations.StartCopiesThePrescaler := by
  refine ⟨exceptionsInOrder .start, rfl, fun s c hr => ?_⟩
  rw [exec, execStart, ifReady_ready hr, setChan_respond_idle hr.1]
  rfl

/-- Settles O25: `STOP` is one write of the clock selection and the response. -/
theorem stopClearsTheClockSelection : Obligations.StopClearsTheClockSelection := by
  refine ⟨exceptionsInOrder .stop, rfl, fun s c hr => ?_⟩
  rw [exec, execStop, ifReady_ready hr, setChan_respond_idle hr.1]
  rfl

end Sys2Proof.Machine
end

section
/-! PROOFS. The edge counter's own commands and step (42_edge_counter.md): the micro-step tables of `GET_STEP_COUNT`
(R94) and `RESET_COUNTS` (R95), `EVT_ENABLE` (R96), and the handler's step (R91 to R93). -/

namespace Sys2Proof.Machine

/-! The micro-step tables, row by row. -/

theorem exec_getStepCount_ready {s : State} (hr : s.Ready) (c : Channel) :
    exec (.getStepCount c) s = .next { s.enterSection c with seq := .snap c 0 } := by
  rw [exec, execGetStepCount, ifReady_ready hr]

theorem exec_resetCounts_ready {s : State} (hr : s.Ready) :
    exec .resetCounts s = .next { s.enterSection .left with seq := .zero .left 0 } := by
  rw [exec, execResetCounts, ifReady_ready hr]

theorem hostTurn_zero {s : State} {c : Channel} {i : Fin 5} (h : s.seq = .zero c i) :
    hostTurn s = .next (s.zeroStep c i) := by
  rw [hostTurn_inProgress (by simp [h]), State.continueCommand, h]

theorem snapStep_byte (s : State) (c : Channel) {i : Fin 5} (h : i.val < 4) :
    s.snapStep c i =
      { s with snap := setByte s.snap i.val (byteOf (s.chan c).edgeCount i.val), seq := .snap c (i + 1) } :=
  if_pos h

theorem snapStep_exit (s : State) (c : Channel) :
    s.snapStep c 4 = (s.exitSection c).respond 0x00 (halve s.snap) := rfl

theorem zeroStep_byte (s : State) (c : Channel) {i : Fin 5} (h : i.val < 4) :
    s.zeroStep c i =
      { s.setChan c { s.chan c with edgeCount := setByte (s.chan c).edgeCount i.val 0x00 } with
        seq := .zero c (i + 1) } :=
  if_pos h

theorem zeroStep_left_exit (s : State) :
    s.zeroStep .left 4 = { (s.exitSection .left).enterSection .right with seq := .zero .right 0 } := rfl

theorem zeroStep_right_exit (s : State) : s.zeroStep .right 4 = (s.exitSection .right).respond 0x00 0 := rfl

/-- Settles O22, row by row; the copied byte is the one that `setByte` replaces. -/
theorem getStepCountFollowsItsTable : Obligations.GetStepCountFollowsItsTable := by
  refine ⟨exceptionsInOrder .getStepCount, rfl, fun s c hr => exec_getStepCount_ready hr c, fun s c i hq hi => ?_,
    fun s c hq => ?_⟩
  · refine ⟨setByte s.snap i.val (byteOf (s.chan c).edgeCount i.val), byteOf_setByte_self _ _ _ hi,
      fun j hj hne => byteOf_setByte_ne _ _ _ _ hj hne, ?_⟩
    rw [hostTurn_snap hq, snapStep_byte s c hi]
  · rw [hostTurn_snap hq, snapStep_exit, halve_eq]
    rfl

/-- Settles O21, row by row; no operand is left open, so one word stands for the command. -/
theorem resetCountsFollowsItsTable : Obligations.ResetCountsFollowsItsTable := by
  refine ⟨exceptionsInOrder .resetCounts, fun w => ⟨fun hd => ?_, fun hw => hw ▸ rfl⟩,
    fun s hr => exec_resetCounts_ready hr, fun s c i hq hi => ?_, fun s hq => ?_, fun s hq => ?_⟩
  · obtain ⟨_, hencode⟩ := decodedWordsEncodeBack w _ hd
    exact hencode.symm
  · refine ⟨setByte (s.chan c).edgeCount i.val 0x00, byteOf_setByte_self _ _ _ hi,
      fun j hj hne => byteOf_setByte_ne _ _ _ _ hj hne, ?_⟩
    rw [hostTurn_zero hq, zeroStep_byte s c hi]
  · rw [hostTurn_zero hq, zeroStep_left_exit]
    rfl
  · rw [hostTurn_zero hq, zeroStep_right_exit]
    rfl

/-- Settles O27: `EVT_ENABLE` is one write of the event enable and the response. -/
theorem evtEnableWritesTheEventEnable : Obligations.EvtEnableWritesTheEventEnable := by
  refine ⟨exceptionsInOrder .evtEnable, rfl, rfl, fun s c flag hr => ?_⟩
  rw [exec, execEvtEnable, ifReady_ready hr, setChan_respond_idle hr.1]
  rfl

/-! The handler's step. -/

@[simp] theorem takeEdgeEvent_fault (s : State) (c : Channel) : (s.takeEdgeEvent c).fault = s.fault := by
  cases c <;> rfl

theorem takeEdgeEvent_chan_self (s : State) (c : Channel) :
    (s.takeEdgeEvent c).chan c = { s.chan c with edgeCount := (s.chan c).edgeCount + 1, ip := false } := by
  rw [takeEdgeEvent_chan, if_pos rfl]

theorem add_one_eq_ofNat_mod {w : Nat} (x : BitVec w) : x + 1 = BitVec.ofNat w ((x.toNat + 1) % 2 ^ w) :=
  BitVec.eq_of_toNat_eq (by simp)

/-- Settles O35: the step is `takeEdgeEvent`, and 32-bit addition wraps without a record. -/
theorem handlerStepCountsOneEvent : Obligations.HandlerStepCountsOneEvent := by
  refine ⟨fun s c hreset hdue => ?_, fun s t c hreset hdue hmax h => ?_⟩
  · rw [step_handler hreset hdue, State.takeEdgeEvent, afterHandler_chan, State.emit, setChan_trace,
      afterHandler_trace, add_one_eq_ofNat_mod]
  · rw [step_handler hreset hdue] at h
    cases h
    have hwrap : (((s.afterHandler s.nextTurn c).takeEdgeEvent c).chan c).edgeCount = 0 := by
      rw [takeEdgeEvent_chan_self, afterHandler_chan, hmax]
      rfl
    refine ⟨?_, hwrap, ?_, by simp, ?_⟩
    · rw [State.stepCount, hmax]
      rfl
    · rw [State.stepCount, hwrap]
      rfl
    · rw [takeEdgeEvent_chan_self, afterHandler_chan]

/-- Settles O36: each handler writes its own channel and the trace only, so both orders write the same. -/
theorem handlersCommute : Obligations.HandlersCommute := fun _ _ => rfl

end Sys2Proof.Machine
end

section
/-! PROOFS. What a step can do while a command is in progress: the command's next micro-step, or a step of another
agent, which moves a counter by its own handler's steps only (20_memory.md R48, R53, 60_exceptions.md R138, R139). -/

namespace Sys2Proof.Machine

variable {s t u : State}

theorem GlobalsKept.trans (h : GlobalsKept s t) (h' : GlobalsKept t u) : GlobalsKept s u :=
  ⟨h'.config.trans h.config, h'.inited.trans h.inited, h'.fault.trans h.fault, h'.status.trans h.status,
    h'.snap.trans h.snap, h'.seq.trans h.seq⟩

theorem SectionKept.trans {w : Nat} {k k' k'' : Chan w} (h : SectionKept k k') (h' : SectionKept k' k'') :
    SectionKept k k'' :=
  ⟨h'.enabled.trans h.enabled, h'.ie.trans h.ie,
    fun hmask => (h'.edgeCount (h.ie.trans hmask)).trans (h.edgeCount hmask)⟩

@[simp] theorem timerTurn_savedIe (s : State) (c : Channel) : (s.timerTurn c).savedIe = s.savedIe := by
  unfold State.timerTurn State.tick
  split_ifs <;> simp

/-- A timer traces toggles only. -/
theorem timerTurn_trace (s : State) (c : Channel) :
    ∃ new, (s.timerTurn c).trace = s.trace ++ new ∧ ∀ d, edges d new = 0 := by
  unfold State.timerTurn
  split_ifs
  · exact ⟨[], (List.append_nil _).symm, fun _ => rfl⟩
  · refine ⟨_, tick_trace s c, fun d => ?_⟩
    split_ifs <;> rfl

/-- What the timers, the handlers and the schedule do between two micro-steps, `new` being what they trace: the block
around the channels stays, a counter moves by its handler's steps, and a masked handler takes none. -/
structure OthersStep (s t : State) (new : List Event) : Prop where
  globals : GlobalsKept s t
  savedIe : t.savedIe = s.savedIe
  trace : t.trace = s.trace ++ new
  kept : ∀ c, SectionKept (s.chan c) (t.chan c)
  counted : ∀ c, (t.chan c).edgeCount = (s.chan c).edgeCount + BitVec.ofNat 32 (edges c new)
  masked : ∀ c, (s.chan c).ie = false → edges c new = 0

namespace OthersStep

theorem of_same (hglobals : GlobalsKept s t) (hsaved : t.savedIe = s.savedIe) (htrace : t.trace = s.trace)
    (hchan : ∀ c, t.chan c = s.chan c) : OthersStep s t [] where
  globals := hglobals
  savedIe := hsaved
  trace := by rw [htrace, List.append_nil]
  kept c := .of_eq (hchan c)
  counted c := by rw [hchan]; exact (BitVec.add_zero _).symm
  masked _ _ := rfl

theorem endTurn (s : State) : OthersStep s s.endTurn [] :=
  .of_same (endTurn_globalsKept s) (endTurn_savedIe s) (endTurn_trace s) (endTurn_chan s)

theorem afterHandler (s : State) (t : Turn) (c : Channel) : OthersStep s (s.afterHandler t c) [] :=
  .of_same (afterHandler_globalsKept s t c) (afterHandler_savedIe s t c) (afterHandler_trace s t c)
    (afterHandler_chan s t c)

/-- A handler that steps is not masked, so it counts outside the section only (20_memory.md R53). -/
theorem takeEdgeEvent {c : Channel} (hie : (s.chan c).ie = true) : OthersStep s (s.takeEdgeEvent c) [.edge c] where
  globals := takeEdgeEvent_globalsKept s c
  savedIe := by cases c <;> rfl
  trace := takeEdgeEvent_trace s c
  kept d := by
    rw [takeEdgeEvent_chan]
    split_ifs with e
    · subst e
      exact ⟨rfl, rfl, fun hmask => by simp [hie] at hmask⟩
    · exact .of_eq rfl
  counted d := by
    rw [takeEdgeEvent_chan]
    split_ifs with e <;> simp [edges, Event.isEdge, e]
  masked d hmask := by
    have hne : c ≠ d := by
      rintro rfl
      simp [hie] at hmask
    simp [edges, Event.isEdge, hne]

/-- A timer counts ticks, not edges (41_pulse_channel.md R88). -/
theorem timerTurn (s : State) (c : Channel) : ∃ new, OthersStep s (s.timerTurn c) new := by
  obtain ⟨new, htrace, hnone⟩ := timerTurn_trace s c
  refine ⟨new, timerTurn_globalsKept s c, timerTurn_savedIe s c, htrace, fun d => ?_, fun d => ?_, fun d _ => hnone d⟩
  all_goals obtain ⟨hedge, hen, _, hie, _⟩ := timerTurn_chan s c d
  · exact ⟨hen, hie, fun _ => hedge⟩
  · rw [hedge, hnone]
    exact (BitVec.add_zero _).symm

theorem trans {new new' : List Event} (h : OthersStep s t new) (h' : OthersStep t u new') :
    OthersStep s u (new ++ new') where
  globals := h.globals.trans h'.globals
  savedIe := h'.savedIe.trans h.savedIe
  trace := by rw [h'.trace, h.trace, List.append_assoc]
  kept c := (h.kept c).trans (h'.kept c)
  counted c := by rw [h'.counted, h.counted, edges_append, BitVec.ofNat_add, BitVec.add_assoc]
  masked c hmask := by rw [edges_append, h.masked c hmask, h'.masked c ((h.kept c).ie.trans hmask)]

end OthersStep

/-- Everything a step can be while a command is in progress (60_exceptions.md R139). -/
theorem step_inProgress_cases (hs : s.InProgress) (h : step s = .next t) :
    t = s.endTurn.continueCommand ∨ ∃ new, OthersStep s t new := by
  obtain ⟨hseq, hreset⟩ := hs
  rcases step_cases h with ⟨ht, _⟩ | ⟨_, c, hdue, rfl⟩ | ⟨_, _, hh⟩ | ⟨c, _, _, rfl⟩ | ⟨c, _, _, rfl⟩
  · exact absurd ht hreset
  · obtain ⟨_, hie⟩ := dueHandler_some hdue
    have hedge : OthersStep _ ((s.afterHandler s.nextTurn c).takeEdgeEvent c) _ :=
      .takeEdgeEvent (by rwa [afterHandler_chan])
    exact .inr ⟨_, (OthersStep.afterHandler s _ c).trans hedge⟩
  · rw [hostTurn_inProgress (by rwa [endTurn_seq])] at hh
    cases hh
    exact .inl rfl
  · obtain ⟨new, hturn⟩ := OthersStep.timerTurn s.endTurn c
    exact .inr ⟨_, (OthersStep.endTurn s).trans hturn⟩
  · exact .inr ⟨_, .endTurn s⟩

/-- What a run without hardware reset comes to when the port is ready again: `Open` holds while the command is in
progress, other agents' steps keep it, and a further micro-step keeps it or responds with `Done`. -/
theorem Reaches.done_of_idle {Open Done : State → Prop} (h : Reaches State.InProgress s t) (ht : t.seq = .idle)
    (h0 : Open s) (hbusy : ∀ u, Open u → u.seq ≠ .idle) (hothers : ∀ u v new, OthersStep u v new → Open u → Open v)
    (hhost : ∀ u, Open u →
      Open u.continueCommand ∨ u.continueCommand.seq = .idle ∧ Done u.continueCommand) : Done t := by
  have hend : Open t ∨ t.seq = .idle ∧ Done t := by
    refine h.keeps (P := fun u => Open u ∨ u.seq = .idle ∧ Done u) (.inl h0) fun u v hok hu hstep => ?_
    rcases hu with hopen | ⟨hidle, _⟩
    · rcases step_inProgress_cases hok hstep with rfl | ⟨new, hv⟩
      · exact hhost _ (hothers _ _ _ (.endTurn u) hopen)
      · exact .inl (hothers u v new hv hopen)
    · obtain ⟨hseq, _⟩ := hok
      exact absurd hidle hseq
  rcases hend with hopen | ⟨_, hdone⟩
  · exact absurd ht (hbusy t hopen)
  · exact hdone

end Sys2Proof.Machine
end

section
/-! PROOFS. `GET_STEP_COUNT` and `RESET_COUNTS` under every schedule (42_edge_counter.md R94, R95, R97, R99,
20_memory.md R53): what holds while their critical section is open, and what they respond with. -/

namespace Sys2Proof.Machine

variable {s u v : State} {c : Channel}

theorem eq_four_of_not_lt {i : Fin 5} (h : ¬ i.val < 4) : i = 4 := by
  omega

/-! The event enables of both channels around a section. -/

/-- The section on `c` is open: `saved_ie` holds the enable that `c` had in `s`, and the other channel still has its
own. -/
structure SectionOpen (c : Channel) (s u : State) : Prop where
  saved : u.savedIe = (s.chan c).ie
  other : ∀ d, d ≠ c → (u.chan d).ie = (s.chan d).ie

namespace SectionOpen

/-- Entry, where both enables are those of `s` (20_memory.md R51). -/
theorem enter (h : ∀ d, (u.chan d).ie = (s.chan d).ie) (c : Channel) : SectionOpen c s (u.enterSection c) where
  saved := h c
  other d hne := by rw [enterSection_chan_ne u hne, h]

/-- Exit makes both enables those of `s` again (20_memory.md R52). -/
theorem exit (h : SectionOpen c s u) (d : Channel) : ((u.exitSection c).chan d).ie = (s.chan d).ie := by
  by_cases e : d = c
  · subst e
    rw [exitSection_chan_self]
    exact h.saved
  · rw [exitSection_chan_ne u e, h.other d e]

theorem of_same (h : SectionOpen c s u) (hsaved : v.savedIe = u.savedIe)
    (hie : ∀ d, (v.chan d).ie = (u.chan d).ie) : SectionOpen c s v where
  saved := hsaved.trans h.saved
  other d hne := (hie d).trans (h.other d hne)

theorem withSeq (h : SectionOpen c s u) (q : Seq) : SectionOpen c s { u with seq := q } :=
  h.of_same rfl fun d => by rw [withSeq_chan]

/-- Other agents write no event enable. -/
theorem othersStep {new : List Event} (h : SectionOpen c s u) (hv : OthersStep u v new) : SectionOpen c s v :=
  h.of_same hv.savedIe fun d => (hv.kept d).ie

end SectionOpen

/-! `GET_STEP_COUNT c`, accepted in the state `s`. -/

/-- While it is in progress the counter stands still. -/
structure SnapOpen (c : Channel) (s u : State) : Prop where
  progress : ∃ i, u.seq = .snap c i
  inv : SeqInv u
  enables : SectionOpen c s u
  count : (u.chan c).edgeCount = (s.chan c).edgeCount

/-- Its response, with the counter and the enables as they were. -/
def SnapAnswered (c : Channel) (s t : State) : Prop :=
  t.status = 0x00 ∧ t.value = BitVec.ofNat 32 ((s.chan c).edgeCount.toNat / 2) ∧
    (t.chan c).edgeCount = (s.chan c).edgeCount ∧ ∀ d, (t.chan d).ie = (s.chan d).ie

theorem exec_getStepCount_snapOpen {a : State} (hr : s.Ready) (h : exec (.getStepCount c) s = .next a) :
    SnapOpen c s a := by
  have hinv : SeqInv a := exec_seqInv hr rfl h
  rw [exec_getStepCount_ready hr] at h
  cases h
  refine ⟨⟨0, rfl⟩, hinv, (SectionOpen.enter (fun _ => rfl) c).withSeq _, ?_⟩
  rw [withSeq_chan, enterSection_chan_self]

namespace SnapOpen

theorem busy (h : SnapOpen c s u) : u.seq ≠ .idle := by
  obtain ⟨i, hq⟩ := h.progress
  simp [hq]

/-- The channel's handler is masked, so no other agent moves the counter (20_memory.md R53). -/
theorem othersStep {new : List Event} (hv : OthersStep u v new) (h : SnapOpen c s u) : SnapOpen c s v := by
  obtain ⟨i, hq⟩ := h.progress
  obtain ⟨_, _, hmask, _⟩ := (seqInv_snap hq).1 h.inv
  exact ⟨⟨i, hv.globals.seq.trans hq⟩, h.inv.of_kept hv.globals hv.kept, h.enables.othersStep hv,
    ((hv.kept c).edgeCount hmask).trans h.count⟩

/-- The last micro-step finds all four bytes copied. -/
theorem continueCommand (h : SnapOpen c s u) :
    SnapOpen c s u.continueCommand ∨ u.continueCommand.seq = .idle ∧ SnapAnswered c s u.continueCommand := by
  obtain ⟨i, hq⟩ := h.progress
  have hinv := continueCommand_seqInv h.inv
  have hstep : u.continueCommand = u.snapStep c i := by rw [State.continueCommand, hq]
  rw [hstep] at hinv ⊢
  by_cases hi : i.val < 4
  · rw [snapStep_byte u c hi] at hinv ⊢
    exact .inl ⟨⟨i + 1, rfl⟩, hinv, h.enables.of_same rfl fun d => by cases d <;> rfl,
      by cases c <;> exact h.count⟩
  · obtain rfl := eq_four_of_not_lt hi
    obtain ⟨_, _, _, hbytes⟩ := (seqInv_snap hq).1 h.inv
    rw [snapStep_exit, eq_of_bytes hbytes, h.count, halve_eq]
    refine .inr ⟨rfl, rfl, rfl, ?_, fun d => ?_⟩
    · rw [respond_chan, exitSection_chan_self]
      exact h.count
    · rw [respond_chan, h.enables.exit]

end SnapOpen

/-- Settles O45: the counter stands still until the response, and `snap` is a copy of it by then. -/
theorem snapshotIsAtomic : Obligations.SnapshotIsAtomic := by
  intro c s a t hr hexec hrun hidle
  exact hrun.done_of_idle (Open := SnapOpen c s) (Done := SnapAnswered c s) hidle
    (exec_getStepCount_snapOpen hr hexec) (fun _ => SnapOpen.busy) (fun _ _ _ => SnapOpen.othersStep)
    (fun _ => SnapOpen.continueCommand)

/-! `RESET_COUNTS`, accepted in the state `s`. -/

/-- What the trace since `s` says of Left's counter: while Left is zeroed its handler does not step, and from then on
the counter is the number of its handler's steps. -/
def LeftCounted (s u : State) (c : Channel) (new : List Event) : Prop :=
  u.trace = s.trace ++ new ∧
    match c with
    | .left => edges .left new = 0
    | .right => u.left.edgeCount = BitVec.ofNat 32 (edges .left new)

/-- While it is in progress, `c` being the channel it has got to. -/
structure ZeroOpen (s : State) (c : Channel) (u : State) : Prop where
  progress : ∃ i, u.seq = .zero c i
  inv : SeqInv u
  enables : SectionOpen c s u
  counted : ∃ new, LeftCounted s u c new

/-- Its response, with Left's handler steps counted and the enables as they were. -/
def ZeroAnswered (s t : State) : Prop :=
  ∃ new, t.trace = s.trace ++ new ∧ t.status = 0x00 ∧ t.value = 0 ∧
    (t.chan .right).edgeCount = 0 ∧ (t.chan .left).edgeCount = BitVec.ofNat 32 (edges .left new) ∧
    ∀ d, (t.chan d).ie = (s.chan d).ie

theorem exec_resetCounts_zeroOpen {a : State} (hr : s.Ready) (h : exec .resetCounts s = .next a) :
    ZeroOpen s .left a := by
  have hinv : SeqInv a := exec_seqInv hr rfl h
  rw [exec_resetCounts_ready hr] at h
  cases h
  exact ⟨⟨0, rfl⟩, hinv, (SectionOpen.enter (fun _ => rfl) .left).withSeq _, [], (List.append_nil _).symm, rfl⟩

namespace ZeroOpen

theorem busy (h : ZeroOpen s c u) : u.seq ≠ .idle := by
  obtain ⟨i, hq⟩ := h.progress
  simp [hq]

theorem masked (h : ZeroOpen s c u) : (u.chan c).ie = false := by
  obtain ⟨i, hq⟩ := h.progress
  obtain ⟨_, _, hmask, _⟩ := (seqInv_zero hq).1 h.inv
  exact hmask

/-- After four micro-steps the counter is 0. -/
theorem edgeCount_eq_zero (h : ZeroOpen s c u) (hq : u.seq = .zero c 4) : (u.chan c).edgeCount = 0 := by
  obtain ⟨_, _, _, hbytes⟩ := (seqInv_zero hq).1 h.inv
  exact eq_of_bytes fun j hj => (hbytes j hj).trans (byteOf_zero j).symm

/-- Left's handler is masked while Left is zeroed, and counts while Right is (20_memory.md R53). -/
theorem othersStep {new : List Event} (hv : OthersStep u v new) (h : ZeroOpen s c u) : ZeroOpen s c v := by
  obtain ⟨i, hq⟩ := h.progress
  obtain ⟨old, htrace, hleft⟩ := h.counted
  refine ⟨⟨i, hv.globals.seq.trans hq⟩, h.inv.of_kept hv.globals hv.kept, h.enables.othersStep hv,
    old ++ new, by rw [hv.trace, htrace, List.append_assoc], ?_⟩
  cases c with
  | left =>
    dsimp only at hleft ⊢
    rw [edges_append, hleft, hv.masked .left h.masked]
  | right =>
    have hcount := hv.counted .left
    rw [chan_left, chan_left, hleft] at hcount
    dsimp only
    rw [hcount, edges_append, BitVec.ofNat_add]

theorem zeroByte {i : Fin 5} (h : ZeroOpen s c u) (hq : u.seq = .zero c i) (hi : i.val < 4) :
    ZeroOpen s c (u.zeroStep c i) := by
  have hinv := zeroStep_seqInv h.inv hq
  obtain ⟨new, htrace, hleft⟩ := h.counted
  rw [zeroStep_byte u c hi] at hinv ⊢
  refine ⟨⟨i + 1, rfl⟩, hinv, h.enables.of_same ?_ fun d => ?_, new, ?_, ?_⟩
  · exact setChan_savedIe u c _
  · cases c <;> cases d <;> rfl
  · exact (setChan_trace u c _).trans htrace
  · cases c <;> exact hleft

/-- Exit on Left and entry on Right in one micro-step: Left's counter is 0 and starts to count. -/
theorem leftExit (h : ZeroOpen s .left u) (hq : u.seq = .zero .left 4) : ZeroOpen s .right (u.zeroStep .left 4) := by
  have hinv := zeroStep_seqInv h.inv hq
  have hzero := h.edgeCount_eq_zero hq
  obtain ⟨new, htrace, hnone⟩ := h.counted
  rw [zeroStep_left_exit] at hinv ⊢
  refine ⟨⟨0, rfl⟩, hinv, (SectionOpen.enter h.enables.exit .right).withSeq _, new, htrace, ?_⟩
  dsimp only at hnone ⊢
  rw [hnone]
  exact hzero

theorem rightExit (h : ZeroOpen s .right u) (hq : u.seq = .zero .right 4) : ZeroAnswered s (u.zeroStep .right 4) := by
  have hzero := h.edgeCount_eq_zero hq
  obtain ⟨new, htrace, hcount⟩ := h.counted
  rw [zeroStep_right_exit]
  exact ⟨new, htrace, rfl, rfl, hzero, hcount, fun d => by rw [respond_chan, h.enables.exit]⟩

theorem continueCommand (h : ZeroOpen s c u) :
    (∃ d, ZeroOpen s d u.continueCommand) ∨ u.continueCommand.seq = .idle ∧ ZeroAnswered s u.continueCommand := by
  obtain ⟨i, hq⟩ := h.progress
  have hstep : u.continueCommand = u.zeroStep c i := by rw [State.continueCommand, hq]
  rw [hstep]
  by_cases hi : i.val < 4
  · exact .inl ⟨c, h.zeroByte hq hi⟩
  · obtain rfl := eq_four_of_not_lt hi
    cases c with
    | left => exact .inl ⟨.right, h.leftExit hq⟩
    | right => exact .inr ⟨rfl, h.rightExit hq⟩

end ZeroOpen

/-- Settles O46: Left's section, then Right's, during which Left's handler counts from 0. -/
theorem resetCountsZeroesUnderEverySchedule : Obligations.ResetCountsZeroesUnderEverySchedule := by
  intro s a t hr hexec hrun hidle
  exact hrun.done_of_idle (Open := fun u => ∃ c, ZeroOpen s c u) (Done := ZeroAnswered s) hidle
    ⟨.left, exec_resetCounts_zeroOpen hr hexec⟩ (fun _ ⟨_, h⟩ => h.busy)
    (fun _ _ _ hv ⟨c, h⟩ => ⟨c, h.othersStep hv⟩) (fun _ ⟨_, h⟩ => h.continueCommand)

end Sys2Proof.Machine
end

section
/-! PROOFS. The driver's own commands (43_dir_enable.md): `ENABLE` (R102) and `SET_DIR` (R103), each one write of a
driver bit with its trace event, and the level of the pin that follows the bit (R101). -/

namespace Sys2Proof.Machine

/-- A command that writes one channel, traces one event and responds writes nothing else. -/
theorem setChan_emit_respond_idle {s : State} (h : s.seq = .idle) (c : Channel) (k : Chan (width c)) (e : Event)
    (st : Byte) (v : Word) :
    ((s.setChan c k).emit e).respond st v =
      { s.setChan c k with status := st, value := v, trace := s.trace ++ [e] } := by
  rw [respond_idle (by rwa [emit_seq, setChan_seq]), State.emit, setChan_trace]

/-! The pins follow their bits (R101, 10_state.md R40). -/

theorem pin_en_of_enabled {s : State} {c : Channel} {flag : Bool} (hi : s.inited = true)
    (h : (s.chan c).enabled = flag) :
    s.pin c .en = .driven (if flag then s.config.enActive c else !s.config.enActive c) := by
  obtain ⟨-, -, -, hactive, hinactive⟩ := (pinsAreFunctionsOfState s c).2 hi
  cases flag with
  | true => exact hactive h
  | false => exact hinactive h

/-- The operand's sense is the opposite of the direction bit's (R103). -/
theorem pin_dir_of_directionOfForward {s : State} {c : Channel} {forward : Bool} (hi : s.inited = true)
    (h : (s.chan c).direction = directionOfForward forward) :
    s.pin c .dir = .driven (if forward then s.config.dirFwd c else !s.config.dirFwd c) := by
  obtain ⟨-, hforward, hreverse, -, -⟩ := (pinsAreFunctionsOfState s c).2 hi
  cases forward with
  | true => exact hforward h
  | false => exact hreverse h

theorem directionOfForward_bit (forward : Bool) : (directionOfForward forward).bit = !forward := by
  cases forward <;> rfl

/-! The two writes, read back. -/

@[simp] theorem writeEnable_inited (s : State) (c : Channel) (flag : Bool) :
    (s.writeEnable c flag).inited = s.inited := by rw [State.writeEnable, emit_inited, setChan_inited]

@[simp] theorem writeEnable_config (s : State) (c : Channel) (flag : Bool) :
    (s.writeEnable c flag).config = s.config := by rw [State.writeEnable, emit_config, setChan_config]

@[simp] theorem writeEnable_chan_self (s : State) (c : Channel) (flag : Bool) :
    (s.writeEnable c flag).chan c = { s.chan c with enabled := flag } := by
  rw [State.writeEnable, emit_chan, chan_setChan_self]

@[simp] theorem writeDirection_inited (s : State) (c : Channel) (d : Direction) :
    (s.writeDirection c d).inited = s.inited := by rw [State.writeDirection, emit_inited, setChan_inited]

@[simp] theorem writeDirection_config (s : State) (c : Channel) (d : Direction) :
    (s.writeDirection c d).config = s.config := by rw [State.writeDirection, emit_config, setChan_config]

@[simp] theorem writeDirection_chan_self (s : State) (c : Channel) (d : Direction) :
    (s.writeDirection c d).chan c = { s.chan c with direction := d } := by
  rw [State.writeDirection, emit_chan, chan_setChan_self]

theorem writeEnable_respond_pin_en {s : State} (hi : s.inited = true) (c : Channel) (flag : Bool) (st : Byte)
    (v : Word) :
    ((s.writeEnable c flag).respond st v).pin c .en =
      .driven (if flag then s.config.enActive c else !s.config.enActive c) := by
  rw [pin_en_of_enabled (flag := flag) (by simp [hi]) (by simp), respond_config, writeEnable_config]

theorem writeDirection_respond_pin_dir {s : State} (hi : s.inited = true) (c : Channel) (forward : Bool) (st : Byte)
    (v : Word) :
    ((s.writeDirection c (directionOfForward forward)).respond st v).pin c .dir =
      .driven (if forward then s.config.dirFwd c else !s.config.dirFwd c) := by
  rw [pin_dir_of_directionOfForward (forward := forward) (by simp [hi]) (by simp), respond_config,
    writeDirection_config]

/-! The commands at a ready block. -/

theorem exec_enable_ready {s : State} (hr : s.Ready) (c : Channel) (flag : Bool) :
    exec (.enable c flag) s = .next ((s.writeEnable c flag).respond 0x00 0) := by
  rw [exec, execEnable, ifReady_ready hr, Status.code]

theorem exec_setDir_ready {s : State} (hr : s.Ready) (c : Channel) (forward : Bool) :
    exec (.setDir c forward) s = .next ((s.writeDirection c (directionOfForward forward)).respond 0x00 0) := by
  rw [exec, execSetDir, ifReady_ready hr, Status.code]

/-- Settles O14: `ENABLE` is one write of the enable bit, its trace event and the response. -/
theorem enableWritesTheDriverEnable : Obligations.EnableWritesTheDriverEnable := by
  refine ⟨exceptionsInOrder .enable, rfl, rfl, fun s c flag hr => ⟨_, exec_enable_ready hr c flag, ?_⟩⟩
  obtain ⟨hidle, -, hinited⟩ := hr
  exact ⟨setChan_emit_respond_idle hidle c _ _ _ _, writeEnable_respond_pin_en hinited c flag _ _⟩

/-- Settles O15: `SET_DIR` is one write of the direction, its trace event and the response; the event carries the
direction bit, which is the operand negated. -/
theorem setDirWritesTheDirection : Obligations.SetDirWritesTheDirection := by
  refine ⟨exceptionsInOrder .setDir, rfl, rfl, fun s c forward hr => ⟨_, exec_setDir_ready hr c forward, ?_⟩⟩
  obtain ⟨hidle, -, hinited⟩ := hr
  refine ⟨?_, writeDirection_respond_pin_dir hinited c forward _ _⟩
  rw [State.writeDirection, setChan_emit_respond_idle hidle, directionOfForward_bit, directionOfForward]

end Sys2Proof.Machine
end

section
/-! PROOFS. `MOVE` and its pulse micro-steps, row by row (44_step_burst.md R106, R107). -/

namespace Sys2Proof.Machine

/-! The writes, with what they trace. -/

theorem writeEnable_writeDirection_eq (s : State) (c : Channel) (flag : Bool) (d : Direction) :
    (s.writeEnable c flag).writeDirection c d =
      { s.setChan c { s.chan c with enabled := flag, direction := d } with
        trace := s.trace ++ [.pinWrite c .en flag, .pinWrite c .dir d.bit] } := by
  have happend : s.trace ++ [.pinWrite c .en flag] ++ [.pinWrite c .dir d.bit] =
    s.trace ++ [.pinWrite c .en flag, .pinWrite c .dir d.bit] := List.append_assoc ..
  rw [← happend]
  cases c <;> rfl

theorem writePulse_eq (s : State) (c : Channel) (level : Bool) :
    s.writePulse c level =
      { s.setChan c { s.chan c with pulse := level } with
        trace := s.trace ++ [.pinWrite c .pulse level, .delay 5] } := by
  have happend : s.trace ++ [.pinWrite c .pulse level] ++ [.delay 5] =
    s.trace ++ [.pinWrite c .pulse level, .delay 5] := List.append_assoc ..
  rw [← happend]
  cases c <;> rfl

/-- The direction event shows the sign (10_state.md R19). -/
theorem directionOfSteps_bit (steps : Int) : (directionOfSteps steps).bit = decide (steps < 0) := by
  by_cases h : steps < 0 <;> simp [directionOfSteps, h, Direction.bit]

theorem magnitude_eq_zero_iff (steps : Int) : magnitude steps = 0 ↔ steps = 0 := Int.natAbs_eq_zero

/-! `MOVE` at a ready block. -/

theorem exec_move_zero {s : State} (hr : s.Ready) (c : Channel) :
    exec (.move c 0) s = .next (((s.writeEnable c true).writeDirection c .forward).respond 0x00 0) := by
  rw [exec, execMove, ifReady_ready hr]
  rfl

theorem exec_move_ne_zero {s : State} {steps : Int} (hr : s.Ready) (c : Channel) (h : steps ≠ 0) :
    exec (.move c steps) s =
      .next { (s.writeEnable c true).writeDirection c (directionOfSteps steps) with
        seq := .burst c steps.natAbs .high } := by
  rw [exec, execMove, ifReady_ready hr]
  exact congrArg _ (if_neg (mt (magnitude_eq_zero_iff steps).1 h))

/-- Settles O18: the driver and the direction are written first, then the count decides between the burst and the
response. -/
theorem moveSetsUpTheBurst : Obligations.MoveSetsUpTheBurst := by
  refine ⟨exceptionsInOrder .move, rfl, rfl, fun s c steps hr => ?_⟩
  by_cases h : steps = 0
  · subst h
    rw [exec_move_zero hr, writeEnable_writeDirection_eq]
    rfl
  · rw [exec_move_ne_zero hr c h, writeEnable_writeDirection_eq, directionOfSteps_bit]
    simp only [if_neg h]
    cases c <;> rfl

/-! The pulse micro-steps. -/

theorem continueCommand_burst {s : State} {c : Channel} {n : Nat} {phase : Phase} (h : s.seq = .burst c n phase) :
    s.continueCommand = s.burstStep c n phase := by
  rw [State.continueCommand, h]

theorem burstStep_high (s : State) (c : Channel) (n : Nat) :
    s.burstStep c n .high = { s.writePulse c true with seq := .burst c n .low } := rfl

theorem burstStep_low (s : State) (c : Channel) {n : Nat} (h : 1 < n) :
    s.burstStep c n .low = { s.writePulse c false with seq := .burst c (n - 1) .high } := if_pos h

theorem burstStep_last (s : State) (c : Channel) : s.burstStep c 1 .low = (s.writePulse c false).respond 0x00 0 := rfl

/-- Settles O19, row by row. -/
theorem burstMicroStepsWriteLevels : Obligations.BurstMicroStepsWriteLevels := by
  refine fun s c n _ => ⟨fun hq => ?_, fun hq hn => ?_, fun hq hn => ?_⟩
  · rw [hostTurn_burst hq, burstStep_high, writePulse_eq]
  · rw [hostTurn_burst hq, burstStep_low s c hn, writePulse_eq]
  · subst hn
    rw [hostTurn_burst hq, burstStep_last, writePulse_eq]
    rfl

end Sys2Proof.Machine
end

section
/-! PROOFS. `MOVE` under every schedule (44_step_burst.md R107 to R110): what holds after each of its pulse micro-steps,
whatever the timers and the handlers do between them. -/

namespace Sys2Proof.Machine

variable {s t u v : State} {c : Channel} {steps : Int} {new : List Event} {m : Nat}

/-! What the other agents leave to the host: its events and the directions. -/

/-- The event is one of the host's own (00_scope.md R15). -/
def Event.byHost : Event → Bool
  | .pinWrite _ _ _ | .delay _ => true
  | .toggle _ _ | .edge _ => false

theorem filter_isPulseWrite_of_not_byHost (h : ∀ e ∈ new, e.byHost = false) (c : Channel) :
    new.filter (Event.isPulseWrite c) = [] := by
  refine List.filter_eq_nil_iff.2 fun e he => ?_
  cases e with
  | pinWrite | delay => cases h _ he
  | toggle | edge => exact Bool.false_ne_true

theorem delayUnits_of_not_byHost (h : ∀ e ∈ new, e.byHost = false) : delayUnits new = 0 := by
  refine List.sum_eq_zero fun n hn => ?_
  obtain ⟨e, he, rfl⟩ := List.mem_map.1 hn
  cases e with
  | pinWrite | delay => cases h _ he
  | toggle | edge => rfl

theorem takeEdgeEvent_direction (s : State) (c d : Channel) :
    ((s.takeEdgeEvent c).chan d).direction = (s.chan d).direction := by
  rw [takeEdgeEvent_chan]
  split_ifs <;> rfl

theorem timerTurn_trace_not_byHost (s : State) (c : Channel) :
    ∃ new, (s.timerTurn c).trace = s.trace ++ new ∧ ∀ e ∈ new, e.byHost = false := by
  unfold State.timerTurn
  split_ifs
  · exact ⟨[], (List.append_nil _).symm, by simp⟩
  · refine ⟨_, tick_trace s c, ?_⟩
    split_ifs <;> simp [Event.byHost]

/-- Between two micro-steps no direction is written and no event of the host is traced. -/
structure HostSilent (s t : State) (new : List Event) : Prop where
  direction : ∀ c, (t.chan c).direction = (s.chan c).direction
  events : ∀ e ∈ new, e.byHost = false

theorem hostSilent_endTurn (s : State) : HostSilent s s.endTurn [] :=
  ⟨fun c => by rw [endTurn_chan], by simp⟩

/-- `step_inProgress_cases`, with what the other agents leave to the host. -/
theorem step_inProgress_silent (hs : s.InProgress) (h : step s = .next t) :
    t = s.endTurn.continueCommand ∨ ∃ new, OthersStep s t new ∧ HostSilent s t new := by
  rcases step_inProgress_cases hs h with hhost | ⟨new, hothers⟩
  · exact .inl hhost
  have htrace := hothers.trace
  obtain ⟨hseq, hreset⟩ := hs
  rcases step_cases h with ⟨ht, _⟩ | ⟨_, c, _, rfl⟩ | ⟨_, _, hh⟩ | ⟨c, _, _, rfl⟩ | ⟨c, _, _, rfl⟩
  · exact absurd ht hreset
  · rw [takeEdgeEvent_trace, afterHandler_trace] at htrace
    obtain rfl := List.append_cancel_left htrace
    exact .inr ⟨_, hothers, fun d => by rw [takeEdgeEvent_direction, afterHandler_chan], by simp [Event.byHost]⟩
  · rw [hostTurn_inProgress (by rwa [endTurn_seq])] at hh
    cases hh
    exact .inl rfl
  · obtain ⟨_, htimer, hevents⟩ := timerTurn_trace_not_byHost s.endTurn c
    rw [htimer, endTurn_trace] at htrace
    obtain rfl := List.append_cancel_left htrace
    refine .inr ⟨_, hothers, fun d => ?_, hevents⟩
    obtain ⟨_, _, _, _, hdir⟩ := timerTurn_chan s.endTurn c d
    rw [hdir, endTurn_chan]
  · obtain rfl : new = [] := by simpa using htrace
    exact .inr ⟨[], hothers, hostSilent_endTurn s⟩

/-! One pulse micro-step (R107). -/

/-- The level that a pulse micro-step writes. -/
def Phase.level : Phase → Bool
  | .high => true
  | .low => false

theorem burstStep_trace (s : State) (c : Channel) (n : Nat) (phase : Phase) :
    (s.burstStep c n phase).trace = s.trace ++ [.pinWrite c .pulse phase.level, .delay 5] := by
  unfold State.burstStep
  cases phase with
  | high => rw [writePulse_eq]; rfl
  | low => dsimp only; split_ifs <;> rw [writePulse_eq] <;> rfl

/-- A cycle of the burst on `c` is still to be finished. -/
def State.Pulsing (s : State) (c : Channel) : Prop := ∃ n phase, s.seq = .burst c n phase ∧ 1 ≤ n

/-- `MOVE c, steps` has responded; it leaves the level 0 if there was a cycle. -/
structure State.MoveAnswered (s : State) (c : Channel) (steps : Int) : Prop where
  seq : s.seq = .idle
  status : s.status = 0x00
  value : s.value = 0
  pulse : steps ≠ 0 → (s.chan c).pulse = false

theorem burstStep_pulsing_or_answered (s : State) (c : Channel) (steps : Int) {n : Nat} (hn : 1 ≤ n) (phase : Phase) :
    (s.burstStep c n phase).Pulsing c ∨ (s.burstStep c n phase).MoveAnswered c steps := by
  cases phase with
  | high => exact .inl ⟨n, .low, rfl, hn⟩
  | low =>
    rcases hn.eq_or_lt with rfl | hlt
    · rw [burstStep_last, writePulse_eq]
      exact .inr ⟨rfl, rfl, rfl, fun _ => by cases c <;> rfl⟩
    · rw [burstStep_low s c hlt]
      exact .inl ⟨n - 1, .high, rfl, Nat.le_sub_one_of_lt hlt⟩

/-! The whole burst. -/

/-- The pulse writes of the first `m` pulse micro-steps: 1 and 0 in turn. -/
def pulseWrites (c : Channel) : Nat → List Event
  | 0 => []
  | m + 1 => pulseWrites c m ++ [.pinWrite c .pulse (m % 2 == 0)]

theorem pulseWrites_two_mul (c : Channel) (n : Nat) :
    pulseWrites c (2 * n) = (List.replicate n [Event.pinWrite c .pulse true, .pinWrite c .pulse false]).flatten := by
  induction n with
  | zero => rfl
  | succ n ih =>
    have heven : (2 * n % 2 == 0) = true := by simp
    have hodd : ((2 * n + 1) % 2 == 0) = false := by simp
    rw [List.replicate_succ', List.flatten_concat, ← ih, Nat.mul_succ, pulseWrites, pulseWrites, heven, hodd,
      List.append_assoc]
    rfl

/-- `MOVE c, steps`, accepted in `s`, has taken `m` pulse micro-steps by `u`, `new` being the trace since `s`. -/
structure MoveTaken (c : Channel) (steps : Int) (s u : State) (new : List Event) (m : Nat) : Prop where
  trace : u.trace = s.trace ++ new
  enabled : (u.chan c).enabled = true
  direction : (u.chan c).direction = directionOfSteps steps
  counted : ∀ d, (u.chan d).edgeCount = (s.chan d).edgeCount + BitVec.ofNat 32 (edges d new)
  writes : new.filter (Event.isPulseWrite c) = pulseWrites c m
  delays : delayUnits new = 5 * m
  left : u.seq.microStepsLeft + m = 2 * steps.natAbs

namespace MoveTaken

/-- The set-up micro-step writes no pulse, waits not and counts nothing (R106). -/
theorem accepted {a : State} (hr : s.Ready) (h : exec (.move c steps) s = .next a) :
    MoveTaken c steps s a [.pinWrite c .en true, .pinWrite c .dir (decide (steps < 0))] 0 where
  trace := by
    obtain ⟨_, _, _, hexec⟩ := moveSetsUpTheBurst
    rw [hexec s c steps hr] at h
    cases h
    rfl
  enabled := by rw [exec_chan hr h, acceptedChan, if_pos rfl]
  direction := by rw [exec_chan hr h, acceptedChan, if_pos rfl]
  counted d := by
    rw [exec_chan hr h, acceptedChan]
    split_ifs <;> exact (BitVec.add_zero _).symm
  writes := rfl
  delays := rfl
  left := by rw [exec_seq hr h, microStepsLeft_acceptedSeq]; rfl

/-- The other agents take no micro-step; what they count is their own (R110). -/
theorem othersStep {events : List Event} (h : MoveTaken c steps s u new m) (hv : OthersStep u v events)
    (hsilent : HostSilent u v events) : MoveTaken c steps s v (new ++ events) m where
  trace := by rw [hv.trace, h.trace, List.append_assoc]
  enabled := (hv.kept c).enabled.trans h.enabled
  direction := (hsilent.direction c).trans h.direction
  counted d := by rw [hv.counted, h.counted, edges_append, BitVec.ofNat_add, BitVec.add_assoc]
  writes := by
    rw [List.filter_append, filter_isPulseWrite_of_not_byHost hsilent.events, List.append_nil, h.writes]
  delays := by rw [delayUnits_append, delayUnits_of_not_byHost hsilent.events, h.delays, Nat.add_zero]
  left := by rw [hv.globals.seq, h.left]

/-- The count of micro-steps tells the phase: High steps are the even ones. -/
theorem level_eq {n : Nat} {phase : Phase} (h : MoveTaken c steps s u new m) (hq : u.seq = .burst c n phase)
    (hn : 1 ≤ n) : phase.level = (m % 2 == 0) := by
  have hleft := h.left
  rw [hq] at hleft
  cases phase with
  | high =>
    have heven : m % 2 = 0 := by simp only [Seq.microStepsLeft] at hleft; omega
    simp [Phase.level, heven]
  | low =>
    have hodd : m % 2 = 1 := by simp only [Seq.microStepsLeft] at hleft; omega
    simp [Phase.level, hodd]

/-- A pulse micro-step writes the next level, waits 5 and counts nothing. -/
theorem burstStep {n : Nat} {phase : Phase} (h : MoveTaken c steps s u new m) (hq : u.seq = .burst c n phase)
    (hn : 1 ≤ n) :
    MoveTaken c steps s (u.burstStep c n phase) (new ++ [.pinWrite c .pulse phase.level, .delay 5]) (m + 1) := by
  obtain ⟨hen, _, _, _, hdir, _, _⟩ := continueCommand_chan u c
  have hleft : u.continueCommand.seq.microStepsLeft + 1 = u.seq.microStepsLeft := by
    rw [continueCommand_seq]
    exact microStepsLeft_next (by rw [hq]; exact hn) (by simp [hq])
  have hcount (d : Channel) : (u.continueCommand.chan d).edgeCount = (u.chan d).edgeCount := by
    rcases continueCommand_edgeCount u d with hkept | ⟨i, _, hzero, _⟩
    · exact hkept
    · simp [hq] at hzero
  rw [continueCommand_burst hq] at hen hdir hleft hcount
  refine ⟨?_, hen.trans h.enabled, hdir.trans h.direction, fun d => ?_, ?_, ?_, ?_⟩
  · rw [burstStep_trace, h.trace, List.append_assoc]
  · rw [hcount, h.counted, edges_append]
    rfl
  · rw [List.filter_append, h.writes, h.level_eq hq hn, pulseWrites]
    simp [Event.isPulseWrite]
  · rw [delayUnits_append, h.delays]
    rfl
  · rw [← h.left]
    omega

/-- Nothing is left to do, so all `2 * |steps|` pulse micro-steps have been taken. -/
theorem eq_of_idle (h : MoveTaken c steps s u new m) (hq : u.seq = .idle) : m = 2 * steps.natAbs := by
  have hleft := h.left
  rwa [hq, Seq.microStepsLeft, Nat.zero_add] at hleft

end MoveTaken

/-- What a run of `MOVE c, steps` keeps: its micro-steps are accounted for, and it goes on or has responded. -/
def MoveRun (c : Channel) (steps : Int) (s u : State) : Prop :=
  (∃ new m, MoveTaken c steps s u new m) ∧ (u.Pulsing c ∨ u.MoveAnswered c steps)

/-- 0 steps are answered at once (R106). -/
theorem exec_move_moveRun {a : State} (hr : s.Ready) (h : exec (.move c steps) s = .next a) : MoveRun c steps s a := by
  refine ⟨⟨_, _, .accepted hr h⟩, ?_⟩
  by_cases hz : steps = 0
  · subst hz
    rw [exec_move_zero hr] at h
    cases h
    exact .inr ⟨rfl, rfl, rfl, fun hne => absurd rfl hne⟩
  · rw [exec_move_ne_zero hr c hz] at h
    cases h
    exact .inl ⟨_, _, rfl, Nat.one_le_iff_ne_zero.2 (Int.natAbs_ne_zero.2 hz)⟩

/-- A step while it is in progress: the next pulse micro-step, or another agent's. -/
theorem MoveRun.of_step (h : MoveRun c steps s u) (hok : u.InProgress) (hstep : step u = .next v) :
    MoveRun c steps s v := by
  have ⟨hbusy, _⟩ := hok
  obtain ⟨⟨new, m, htaken⟩, ⟨n, phase, hq, hn⟩ | hanswered⟩ := h
  · rcases step_inProgress_silent hok hstep with rfl | ⟨events, hothers, hsilent⟩
    · have hturn : u.endTurn.seq = .burst c n phase := (endTurn_seq u).trans hq
      rw [continueCommand_burst hturn]
      exact ⟨⟨_, _, (htaken.othersStep (.endTurn u) (hostSilent_endTurn u)).burstStep hturn hn⟩,
        burstStep_pulsing_or_answered u.endTurn c steps hn phase⟩
    · exact ⟨⟨_, m, htaken.othersStep hothers hsilent⟩, .inl ⟨n, phase, hothers.globals.seq.trans hq, hn⟩⟩
  · exact absurd hanswered.seq hbusy

/-- Settles O47: of the pulse micro-steps none is left when the port is ready, and the other agents add no event of the
host and write no counter but by their own handler's steps. -/
theorem moveProducesExactlyNCycles : Obligations.MoveProducesExactlyNCycles := by
  intro c steps s a t hr hexec hrun hidle
  have hmove : MoveRun c steps s t :=
    hrun.keeps (exec_move_moveRun hr hexec) fun _ _ hok hu hstep => hu.of_step hok hstep
  obtain ⟨⟨new, m, htaken⟩, ⟨n, phase, hburst, _⟩ | hanswered⟩ := hmove
  · simp [hidle] at hburst
  · obtain rfl := htaken.eq_of_idle hidle
    refine ⟨new, htaken.trace, hanswered.status, hanswered.value, ?_, ?_, hanswered.pulse, htaken.enabled,
      htaken.direction, htaken.counted⟩
    · rw [htaken.writes, pulseWrites_two_mul]
    · rw [htaken.delays]
      omega

end Sys2Proof.Machine
end

section
/-! PROOFS. The facade's own commands (45_facade.md): `INIT` (R113), `SET_SPEED` (R114), `SET_SPEED_BOTH` (R115) and
`STOP_ALL` (R116). -/

namespace Sys2Proof.Machine

/-- A command in range has one word (30_encoding.md R57). -/
theorem decode_ok_iff {w : Command} {i : Instr} (hi : i.wellFormed = true) : decode w = .ok i ↔ w = encode i := by
  constructor
  · intro h
    obtain ⟨_, hencode⟩ := decodedWordsEncodeBack w i h
    exact hencode.symm
  · rintro rfl
    exact decodeOfEncodeIsIdentity i hi

/-- After `INIT` every pin is driven (10_state.md R40). -/
theorem pin_ne_undriven {s : State} (h : s.inited = true) (c : Channel) (p : Pin) : s.pin c p ≠ .undriven := by
  cases p with
  | pulse => simp [pin_pulse h]
  | dir => simp [pin_dir h]
  | en => simp [pin_en h]

/-- Settles O13: `INIT` is one write of both channels and `inited`, and the response. -/
theorem initConfiguresBothChannels : Obligations.InitConfiguresBothChannels := by
  refine ⟨exceptionsInOrder .init, fun _ => decode_ok_iff rfl, fun s hs hf => ⟨_, exec_init_accepted hs hf, ?_, ?_⟩⟩
  · exact respond_idle (by exact hs) _ _
  · exact pin_ne_undriven rfl

/-! The speed commands. -/

theorem exec_setSpeed_ready {s : State} (hr : s.Ready) (c : Channel) (rpm : Nat) :
    exec (.setSpeed c rpm) s = .next { s.setChan c (speedChan (mapSpeed s.config c rpm) (s.chan c)) with
      status := speedCode (mapSpeed s.config c rpm), value := 0 } := by
  rw [exec, execSetSpeed, ifReady_ready hr, applySpeed_fst, applySpeed_code, setChan_respond_idle hr.1]

theorem exec_setSpeed_keeps_ready {s t : State} {c : Channel} {rpm : Nat} (hr : s.Ready)
    (h : exec (.setSpeed c rpm) s = .next t) : t.Ready := by
  rw [exec_setSpeed_ready hr] at h
  cases h
  cases c <;> exact hr

/-- The example of R114 and R115 (95_test_vectors.md, CFG-B). -/
theorem mapSpeed_left_600_of_cfgB {p : Config.Params} (h : p = Config.cfgB) :
    mapSpeed p .left 600 = .setting 61 3 false := by
  subst h
  decide

/-- Settles O16: the command is `applySpeed` on its channel, and the response. -/
theorem setSpeedProgramsAndStarts : Obligations.SetSpeedProgramsAndStarts := by
  refine ⟨exceptionsInOrder .setSpeed, rfl, fun s c rpm hr => exec_setSpeed_ready hr c rpm, fun s hr hcfg => ?_⟩
  rw [exec_setSpeed_ready hr, mapSpeed_left_600_of_cfgB hcfg]
  rfl

theorem maxCode_eq_ofNat_max (a b : Byte) : maxCode a b = BitVec.ofNat 8 (max a.toNat b.toNat) := by
  unfold maxCode
  split_ifs with h
  · rw [Nat.max_eq_right h.le, BitVec.ofNat_toNat, BitVec.setWidth_eq]
  · rw [Nat.max_eq_left (Nat.le_of_not_lt h), BitVec.ofNat_toNat, BitVec.setWidth_eq]

theorem exec_setSpeedBoth_ready {s : State} (hr : s.Ready) (rpmL rpmR : Nat) :
    exec (.setSpeedBoth rpmL rpmR) s = .next { s with
      left := speedChan (mapSpeed s.config .left rpmL) s.left
      right := speedChan (mapSpeed s.config .right rpmR) s.right
      status := BitVec.ofNat 8 (max (speedCode (mapSpeed s.config .left rpmL)).toNat
        (speedCode (mapSpeed s.config .right rpmR)).toNat)
      value := (0 : BitVec 16) ++ speedCode (mapSpeed s.config .right rpmR) ++
        speedCode (mapSpeed s.config .left rpmL) } := by
  rw [exec, execSetSpeedBoth, ifReady_ready hr]
  dsimp only
  rw [applySpeed_code, applySpeed_code, applySpeed_fst, applySpeed_fst, setChan_config, maxCode_eq_ofNat_max,
    setChan_respond_idle (by rw [setChan_seq]; exact hr.1)]
  rfl

/-- Settles O17: each half is `applySpeed` on a channel of its own, so the second finds its channel as it was. -/
theorem setSpeedBothProgramsEachChannel : Obligations.SetSpeedBothProgramsEachChannel := by
  refine ⟨exceptionsInOrder .setSpeedBoth, rfl, fun s rpmL rpmR hr => exec_setSpeedBoth_ready hr rpmL rpmR,
    fun s t a b rpmL rpmR hr ht ha hb => ?_, fun s hr hcfg => ?_⟩
  · rw [exec_setSpeed_ready (exec_setSpeed_keeps_ready hr ha)] at hb
    rw [exec_setSpeed_ready hr] at ha
    rw [exec_setSpeedBoth_ready hr] at ht
    cases ht
    cases ha
    cases hb
    rfl
  · rw [exec_setSpeedBoth_ready hr, mapSpeed_left_600_of_cfgB hcfg, mapSpeed_zero]
    rfl

/-! `STOP_ALL`. -/

/-- Both drivers written, Left's event first. -/
theorem writeEnable_left_right_eq (s : State) (flag : Bool) :
    (s.writeEnable .left flag).writeEnable .right flag =
      { s with
        left := { s.left with enabled := flag }
        right := { s.right with enabled := flag }
        trace := s.trace ++ [.pinWrite .left .en flag, .pinWrite .right .en flag] } := by
  have happend : s.trace ++ [.pinWrite .left .en flag] ++ [.pinWrite .right .en flag] =
    s.trace ++ [.pinWrite .left .en flag, .pinWrite .right .en flag] := List.append_assoc ..
  rw [← happend]
  rfl

theorem exec_stopAll_ready {s : State} (hr : s.Ready) :
    exec .stopAll s = .next { s with
      left := { s.left with enabled := false, cs := 0 }
      right := { s.right with enabled := false, cs := 0 }
      status := 0x00, value := 0
      trace := s.trace ++ [.pinWrite .left .en false, .pinWrite .right .en false] } := by
  rw [exec, execStopAll, ifReady_ready hr, writeEnable_left_right_eq]
  exact congrArg _ (respond_idle (by exact hr.1) 0x00 0)

/-- Settles O20: two driver writes and two clock selections, no more; no operand is left open. -/
theorem stopAllDisablesAndHalts : Obligations.StopAllDisablesAndHalts :=
  ⟨exceptionsInOrder .stopAll, fun _ => decode_ok_iff rfl, fun _ => exec_stopAll_ready⟩

end Sys2Proof.Machine
end

section
/-! PROOFS. The channel state machine (45_facade.md R117, 43_dir_enable.md R104): which commands move a channel between
Enabled and Disabled, and which between Running and Stopped; and how a stopped channel resumes its speed (R118). -/

namespace Sys2Proof.Machine

/-- A command leaves a channel as it is, or acts on it as at a ready block. -/
theorem exec_chan_cases {i : Instr} {s t : State} (h : exec i s = .next t) (c : Channel) :
    t.chan c = s.chan c ∨ t.chan c = acceptedChan s.config c (s.chan c) i := by
  rcases exec_cases h with ⟨_, rfl⟩ | ⟨_, _, rfl⟩ | ⟨_, _, _, _, rfl⟩ | ⟨_, _, rfl⟩ | hr
  · exact .inl rfl
  · exact .inl (by cases c <;> rfl)
  · exact .inl (by cases c <;> rfl)
  · exact (exec_init_chan h).imp (· c) (· c)
  · exact .inr (exec_chan hr h c)

section
variable {p : Config.Params} {c : Channel} {k : Chan (width c)} {i : Instr}

theorem speedChan_enabled {w : Nat} (m : Mapped) (k : Chan w) : (speedChan m k).enabled = k.enabled := by
  cases m <;> rfl

/-- The commands that write `enabled[c]` (10_state.md R18). -/
theorem acceptedChan_enabled_ne (h : (acceptedChan p c k i).enabled ≠ k.enabled) :
    (∃ flag, i = .enable c flag) ∨ (∃ steps, i = .move c steps) ∨ i = .stopAll ∨ i = .init := by
  cases i with
  | init => exact .inr (.inr (.inr rfl))
  | stopAll => exact .inr (.inr (.inl rfl))
  | enable d flag =>
    by_cases e : d = c
    · exact .inl ⟨flag, by rw [e]⟩
    · exact absurd (by rw [acceptedChan, if_neg e]) h
  | move d steps =>
    by_cases e : d = c
    · exact .inr (.inl ⟨steps, by rw [e]⟩)
    · exact absurd (by rw [acceptedChan, if_neg e]) h
  | mapSpeed => exact absurd rfl h
  | setSpeedBoth => exact absurd (speedChan_enabled _ _) h
  | setSpeed d rpm =>
    refine absurd ?_ h
    dsimp only [acceptedChan]
    split_ifs
    · exact speedChan_enabled _ _
    · rfl
  | setDir | resetCounts | getStepCount | program | start | stop | evtEnable =>
    refine absurd ?_ h
    dsimp only [acceptedChan]
    split_ifs <;> rfl

/-- The commands that write `cs[c]` (10_state.md R23). -/
theorem acceptedChan_cs_ne (h : (acceptedChan p c k i).cs ≠ k.cs) :
    (∃ rpm, i = .setSpeed c rpm) ∨ (∃ rpmL rpmR, i = .setSpeedBoth rpmL rpmR) ∨ i = .start c ∨ i = .stop c ∨
      i = .stopAll ∨ i = .init := by
  cases i with
  | init | stopAll | setSpeedBoth => simp
  | setSpeed d | start d | stop d =>
    by_cases e : d = c
    · simp [e]
    · exact absurd (by rw [acceptedChan, if_neg e]) h
  | mapSpeed => exact absurd rfl h
  | enable | setDir | move | resetCounts | getStepCount | program | evtEnable =>
    refine absurd ?_ h
    dsimp only [acceptedChan]
    split_ifs <;> rfl

end

/-- A step that accepts no word, hardware reset apart, leaves the driver and the clock selection alone. -/
theorem step_keeps_enabled_cs {s t : State} (hreset : s.nextTurn ≠ .reset) (h : step s = .next t)
    (hword : ¬ (s.nextTurn = .host ∧ s.NoHandlerDue ∧ s.seq = .idle ∧ s.port ≠ [])) (c : Channel) :
    (t.chan c).enabled = (s.chan c).enabled ∧ (t.chan c).cs = (s.chan c).cs := by
  rw [← endTurn_chan s c]
  rcases step_cases h with ⟨ht, _⟩ | ⟨_, d, _, rfl⟩ | ⟨ht, hn, hh⟩ | ⟨d, _, _, rfl⟩ | ⟨d, _, _, rfl⟩
  · exact absurd ht hreset
  · rw [takeEdgeEvent_chan, afterHandler_chan, endTurn_chan]
    split_ifs <;> exact ⟨rfl, rfl⟩
  · rcases hostTurn_cases hh with ⟨_, _, rfl⟩ | ⟨hs, w, rest, hport, _⟩ | ⟨_, rfl⟩
    · exact ⟨rfl, rfl⟩
    · rw [endTurn_seq] at hs
      rw [endTurn_port] at hport
      exact absurd ⟨ht, hn, hs, by simp [hport]⟩ hword
    · obtain ⟨henabled, hcs, _⟩ := continueCommand_chan s.endTurn c
      exact ⟨henabled, hcs⟩
  · obtain ⟨_, henabled, hcs, _⟩ := timerTurn_chan s.endTurn d c
    exact ⟨henabled, hcs⟩
  · exact ⟨rfl, rfl⟩

/-- Settles O54: by what an accepted command makes of a channel, and agent by agent where no word is accepted. -/
theorem onlyTheirCommandsEnableOrRun : Obligations.OnlyTheirCommandsEnableOrRun := by
  refine ⟨fun s t i c h => ?_, fun _ _ c hreset h hword => step_keeps_enabled_cs hreset h hword c⟩
  rcases exec_chan_cases h c with e | e <;> rw [e]
  · exact ⟨absurd rfl, absurd rfl⟩
  · exact ⟨acceptedChan_enabled_ne, acceptedChan_cs_ne⟩

/-! Stopping and restarting at one speed (R118). -/

theorem exec_stopAll_keeps_ready {s t : State} (hr : s.Ready) (h : exec .stopAll s = .next t) : t.Ready := by
  rw [exec_stopAll_ready hr] at h
  cases h
  exact hr

/-- Settles O55: the mapper reads the parameters only, and `STOP_ALL` keeps the prescaler that `START` copies. -/
theorem restartReproducesTheSpeed : Obligations.RestartReproducesTheSpeed := by
  intro s a b t u c rpm hr hmap ha hb ht hu
  have hra := exec_setSpeed_keeps_ready hr ha
  have hrb := exec_stopAll_keeps_ready hra hb
  have hcfg : b.config = s.config := (exec_hostWrites hb).config.trans (exec_hostWrites ha).config
  have hachan : a.chan c = speedChan (mapSpeed s.config c rpm) (s.chan c) :=
    (exec_chan hr ha c).trans (if_pos rfl)
  have hbchan : b.chan c = { a.chan c with enabled := false, cs := 0 } := exec_chan hra hb c
  have htchan : t.chan c = (b.chan c).start := (exec_chan hrb ht c).trans (if_pos rfl)
  have huchan : u.chan c = speedChan (mapSpeed b.config c rpm) (b.chan c) :=
    (exec_chan hrb hu c).trans (if_pos rfl)
  cases hm : mapSpeed s.config c rpm with
  | invalidSpeed => exact absurd hm hmap
  | setting top ps clamped =>
    rw [huchan, htchan, hbchan, hachan, hcfg, hm]
    exact ⟨rfl, ⟨rfl, rfl, rfl, rfl⟩, rfl, rfl, rfl, rfl⟩

end Sys2Proof.Machine
end

section
/-! PROOFS. Conditions, faults and the refusal (60_exceptions.md R120 to R124): the first failing check decides, the
fault latch keeps the first fault, and a rejected speed writes the response only. -/

namespace Sys2Proof.Machine

/-- Settles O10: the command of a word that decodes and the rejection of one that does not check the latch first. -/
theorem everyWordIsRefusedWhileFaulted : Obligations.EveryWordIsRefusedWhileFaulted :=
  fun w _ hs hf => present_faulted w hs hf

/-! A rejected speed (R120). -/

theorem exec_setSpeed_invalidSpeed {s : State} {c : Channel} {rpm : Nat} (hr : s.Ready)
    (h : mapSpeed s.config c rpm = .invalidSpeed) :
    exec (.setSpeed c rpm) s = .next { s with status := 0x02, value := 0 } := by
  rw [exec_setSpeed_ready hr, h, speedChan, speedCode, setChan_chan]

/-- Settles O12: speed 0 is one of those that the mapper rejects. -/
theorem rejectedSpeedChangesOnlyTheResponse : Obligations.RejectedSpeedChangesOnlyTheResponse := by
  intro s c rpm hr h
  have hrejected : mapSpeed s.config c rpm = .invalidSpeed := by
    rcases h with h | rfl
    · exact h
    · exact mapSpeed_zero s.config c
  exact ⟨exec_setSpeed_invalidSpeed hr hrejected, exec_mapSpeed_invalidSpeed hr hrejected⟩

/-- Settles O9: the checks before a command executes are the same for every opcode; the value checks come last. -/
theorem firstFailingCheckDecides : Obligations.FirstFailingCheckDecides := by
  refine ⟨exceptionsInOrder, fun w s hs hop => ⟨present_faulted w hs, fun hf => ?_⟩,
    fun s c top rpm ps hr => ⟨exec_program_unusable top hr, fun h => ?_⟩,
    fun s hs hf => ⟨?_, fun hi => ?_, fun hi => ?_⟩⟩
  · exact present_rejected hs hf (decode_undefined hop)
  · exact ⟨exec_setSpeed_invalidSpeed hr h, exec_mapSpeed_invalidSpeed hr h⟩
  · exact present_rejected (e := .reservedBits) hs hf rfl
  · exact exec_uninitialised _ hs hf hi (by decide)
  · exact exec_program_unusable 499 ⟨hs, hf, hi⟩ (.inl rfl)

/-! What the agents other than the host keep (R138). -/

/-- From `s` to `t` nothing is written that only the host writes: the global elements (20_memory.md R48) and the words
it has still to present. -/
structure HostElementsKept (s t : State) : Prop extends GlobalsKept s t where
  value : t.value = s.value
  savedIe : t.savedIe = s.savedIe
  port : t.port = s.port

namespace HostElementsKept

variable {s t u : State}

theorem trans (h : HostElementsKept s t) (h' : HostElementsKept t u) : HostElementsKept s u :=
  ⟨h.toGlobalsKept.trans h'.toGlobalsKept, h'.value.trans h.value, h'.savedIe.trans h.savedIe, h'.port.trans h.port⟩

theorem endTurn (s : State) : HostElementsKept s s.endTurn :=
  ⟨endTurn_globalsKept s, endTurn_value s, endTurn_savedIe s, endTurn_port s⟩

theorem afterHandler (s : State) (t : Turn) (c : Channel) : HostElementsKept s (s.afterHandler t c) :=
  ⟨afterHandler_globalsKept s t c, afterHandler_value s t c, afterHandler_savedIe s t c, afterHandler_port s t c⟩

theorem takeEdgeEvent (s : State) (c : Channel) : HostElementsKept s (s.takeEdgeEvent c) :=
  ⟨takeEdgeEvent_globalsKept s c, by cases c <;> rfl, by cases c <;> rfl, takeEdgeEvent_port s c⟩

theorem timerTurn (s : State) (c : Channel) : HostElementsKept s (s.timerTurn c) := by
  refine ⟨timerTurn_globalsKept s c, ?_, timerTurn_savedIe s c, timerTurn_port s c⟩
  unfold State.timerTurn State.tick
  split_ifs <;> simp

end HostElementsKept

/-- The turn of a handler passes if no handler is enabled (log entry 7). -/
theorem step_handler_passes {s : State} {c : Channel} (ht : s.nextTurn = .handler c) (hn : s.NoHandlerDue) :
    step s = .next s.endTurn := by
  unfold step
  rw [ht]
  unfold runTurn
  rw [dueHandler_none.2 hn]

/-- A step of a timer or a handler is total (R138). -/
theorem step_asynchronous {s : State} (hreset : s.nextTurn ≠ .reset) (h : ¬ s.NoHandlerDue ∨ s.nextTurn ≠ .host) :
    ∃ t, step s = .next t ∧ HostElementsKept s t := by
  cases hdue : s.dueHandler s.nextTurn with
  | some c =>
    exact ⟨_, step_handler hreset hdue, (HostElementsKept.afterHandler s _ c).trans (.takeEdgeEvent _ c)⟩
  | none =>
    have hn : s.NoHandlerDue := dueHandler_none.1 hdue
    cases ht : s.nextTurn with
    | reset => exact absurd ht hreset
    | host => exact absurd ht (h.resolve_left (not_not_intro hn))
    | timer c => exact ⟨_, step_timer ht hn, (HostElementsKept.endTurn s).trans (.timerTurn _ c)⟩
    | handler c => exact ⟨_, step_handler_passes ht hn, .endTurn s⟩

/-- Settles O38, agent by agent. -/
theorem asynchronousStepsNeverFail : Obligations.AsynchronousStepsNeverFail := by
  intro s hreset h
  obtain ⟨t, hstep, hkept⟩ := step_asynchronous hreset h
  exact ⟨t, hstep, hkept.fault, hkept.status, hkept.value, hkept.inited, hkept.snap, hkept.savedIe, hkept.seq,
    hkept.port⟩

/-! Which steps of the host write the fault latch (R122, 10_state.md R32). -/

/-- From `s` to `t` the fault latch stays, or the step is a fault's answer while none is latched. -/
def FaultKeptOrRaised (s t : State) : Prop :=
  t.fault = s.fault ∨ s.fault = 0 ∧ ∃ r : Raised, t = s.answeredFault r.status.code

/-- At a ready block an unusable code of `PROGRAM` is the one fault that a command raises (R122). -/
theorem exec_ready_faultKeptOrRaised {i : Instr} {s t : State} (hr : s.Ready) (h : exec i s = .next t) :
    FaultKeptOrRaised s t := by
  have ⟨hs, hf, _⟩ := hr
  cases i with
  | program c top ps =>
    rw [exec, execProgram, ifReady_ready hr] at h
    cases h
    split_ifs
    · exact .inr ⟨hf, .illegalCommand, rfl⟩
    · exact .inl (by simp)
  | init =>
    rw [exec_init_accepted hs hf] at h
    cases h
    exact .inl rfl
  | setSpeed c rpm =>
    rw [exec_setSpeed_ready hr] at h
    cases h
    exact .inl (by simp)
  | setSpeedBoth rpmL rpmR =>
    rw [exec_setSpeedBoth_ready hr] at h
    cases h
    exact .inl rfl
  | move c steps =>
    rw [exec, execMove, ifReady_ready hr] at h
    cases h
    dsimp only
    split_ifs <;> cases c <;> exact .inl rfl
  | mapSpeed c rpm =>
    rw [exec, execMapSpeed, ifReady_ready hr] at h
    cases h
    split <;> exact .inl rfl
  | stopAll | resetCounts =>
    simp only [exec, execStopAll, execResetCounts, ifReady_ready hr, Host.Outcome.next.injEq] at h
    subst h
    exact .inl rfl
  | enable c _ | setDir c _ | getStepCount c | start c | stop c | evtEnable c _ =>
    simp only [exec, execEnable, execSetDir, execGetStepCount, execStart, execStop, execEvtEnable, ifReady_ready hr,
      Host.Outcome.next.injEq] at h
    subst h
    cases c <;> exact .inl rfl

theorem exec_faultKeptOrRaised {i : Instr} {s t : State} (h : exec i s = .next t) : FaultKeptOrRaised s t := by
  rcases exec_cases h with ⟨_, rfl⟩ | ⟨_, _, rfl⟩ | ⟨_, hf, _, _, rfl⟩ | ⟨hs, hf, rfl⟩ | hr
  · exact .inl rfl
  · exact .inl rfl
  · exact .inr ⟨hf, .notInitialised, rfl⟩
  · rw [exec_init_accepted hs hf] at h
    cases h
    exact .inl rfl
  · exact exec_ready_faultKeptOrRaised hr h

theorem present_faultKeptOrRaised {w : Command} {s t : State} (hs : s.seq = .idle) (h : present w s = .next t) :
    FaultKeptOrRaised s t := by
  rcases present_cases h with ⟨i, _, he⟩ | ⟨e, _, rfl⟩
  · exact exec_faultKeptOrRaised he
  · by_cases hf : s.fault = 0
    · exact .inr ⟨hf, rejectRaises e, rejectWord_raises e hs hf⟩
    · rw [rejectWord_faulted e hs hf]
      exact .inl rfl

@[simp] theorem enterSection_fault (s : State) (c : Channel) : (s.enterSection c).fault = s.fault := by cases c <;> rfl
@[simp] theorem exitSection_fault (s : State) (c : Channel) : (s.exitSection c).fault = s.fault := by cases c <;> rfl
@[simp] theorem writePulse_fault (s : State) (c : Channel) (level : Bool) : (s.writePulse c level).fault = s.fault := by
  cases c <;> rfl

/-- Once past its checks a command cannot fault (R139). -/
theorem continueCommand_fault (s : State) : s.continueCommand.fault = s.fault := by
  unfold State.continueCommand
  split
  case h_1 => rfl
  case h_2 c i _ => unfold State.snapStep; split_ifs <;> simp
  case h_3 c i _ => unfold State.zeroStep; split_ifs <;> cases c <;> simp
  case h_4 c n phase _ =>
    unfold State.burstStep
    cases phase with
    | high => simp
    | low => dsimp only; split_ifs <;> simp

/-- A step writes the fault latch only where the host's word raises a fault and none is latched (R122, R138). -/
theorem step_fault_cases {s t : State} (hreset : s.nextTurn ≠ .reset) (h : step s = .next t) :
    t.fault = s.fault ∨
    (s.fault = 0 ∧ s.nextTurn = .host ∧ s.NoHandlerDue ∧ s.seq = .idle ∧ s.port ≠ [] ∧
      ∃ r : Raised, t.fault = r.status.code ∧ t.status = t.fault ∧ t.value = 0) := by
  by_cases hhost : s.NoHandlerDue ∧ s.nextTurn = .host
  · obtain ⟨hn, ht⟩ := hhost
    rw [step_host ht hn] at h
    rcases hostTurn_cases h with ⟨_, _, rfl⟩ | ⟨hs, w, rest, hp, hw⟩ | ⟨_, rfl⟩
    · exact .inl (endTurn_fault s)
    · rcases present_faultKeptOrRaised (s := { s.endTurn with port := rest }) hs hw with e | ⟨hf, r, rfl⟩
      · exact .inl (e.trans (endTurn_fault s))
      · rw [endTurn_seq] at hs
        rw [endTurn_port] at hp
        exact .inr ⟨(endTurn_fault s).symm.trans hf, ht, hn, hs, by simp [hp], r, rfl, rfl, rfl⟩
    · exact .inl ((continueCommand_fault _).trans (endTurn_fault s))
  · obtain ⟨u, hstep, hkept⟩ := step_asynchronous hreset (not_and_or.1 hhost)
    cases hstep.symm.trans h
    exact .inl hkept.fault

theorem raised_code_mem (r : Raised) : r.status.code ∈ [0x10, 0x11, 0x12] := by
  cases r <;> decide

/-- Settles O11: a fault is raised only while none is latched, and a word is refused while one is. -/
theorem faultLatchKeepsTheFirstFault : Obligations.FaultLatchKeepsTheFirstFault := by
  intro s t hreset h
  refine ⟨fun hf => ?_, fun hne => ?_, fun w rest hf ht hn hs hp => ?_⟩
  · rcases step_fault_cases hreset h with e | ⟨hf0, _⟩
    · exact e
    · exact absurd hf0 hf
  · rcases step_fault_cases hreset h with e | ⟨_, ht, hn, hs, hp, r, hr, hstatus, hvalue⟩
    · exact absurd e hne
    · exact ⟨ht, hn, hs, hp, hr ▸ raised_code_mem r, hstatus, hvalue⟩
  · have hidle : s.endTurn.seq = .idle := (endTurn_seq s).trans hs
    have hlatched : s.endTurn.fault ≠ 0 := (endTurn_fault s).symm ▸ hf
    rw [step_word ht hn hs hp, present_faulted (s := { s.endTurn with port := rest }) w hidle hlatched] at h
    cases h
    rw [State.answeredRefusal, ← hidle]

end Sys2Proof.Machine
end

section
/-! PROOFS. No agent writes the parameters, and hardware reset keeps them (60_exceptions.md R137, log entry 2). -/

namespace Sys2Proof.Machine

/-- Settles O59, agent by agent. -/
theorem parametersNeverChange : Obligations.ParametersNeverChange := by
  intro s t h
  rcases step_cases h with ⟨_, rfl⟩ | ⟨_, c, _, rfl⟩ | ⟨_, _, hh⟩ | ⟨c, _, _, rfl⟩ | ⟨_, _, _, rfl⟩
  · exact endTurn_config s
  · exact (takeEdgeEvent_globalsKept _ c).config.trans (afterHandler_config s _ c)
  · exact (hostTurn_hostWrites hh).config.trans (endTurn_config s)
  · exact (timerTurn_globalsKept _ c).config.trans (endTurn_config s)
  · exact endTurn_config s

end Sys2Proof.Machine
end

section
/-! PROOFS. Totality and hardware reset (70_reset_and_hazards.md): every step has an outcome (R159),
reset takes any state to the reset values in one step (R140, R145), and from there only a word does anything (R142). -/

namespace Sys2Proof.Machine

/-! Every step has an outcome (R159). -/

theorem present_next (w : Command) (s : State) : ∃ t, present w s = .next t := by
  cases h : decode w with
  | ok i => rw [present_of_decode_ok h]; exact exec_next i s
  | error e => exact ⟨_, present_of_decode_error h⟩

/-- With nothing in progress and nothing to present the host waits (00_scope.md R12(d)). -/
theorem hostTurn_waits {s : State} (hs : s.seq = .idle) (hp : s.port = []) : hostTurn s = .next s := by
  unfold hostTurn
  rw [hs, hp]

theorem hostTurn_next (s : State) : ∃ t, hostTurn s = .next t := by
  by_cases hs : s.seq = .idle
  · cases hp : s.port with
    | nil => exact ⟨s, hostTurn_waits hs hp⟩
    | cons w rest => rw [hostTurn_word hs hp]; exact present_next w _
  · exact ⟨_, hostTurn_inProgress hs⟩

/-- Hardware reset goes before an enabled handler too (R140). -/
theorem step_reset {s : State} (h : s.nextTurn = .reset) : step s = .next s.endTurn.hardwareReset := by
  unfold step
  rw [h]
  rfl

/-- Settles O39: hardware reset, the host's turn, and the steps of the other agents. -/
theorem everyStepAnswersANextState : Obligations.EveryStepAnswersANextState := by
  intro s
  by_cases hreset : s.nextTurn = .reset
  · exact ⟨_, step_reset hreset⟩
  · by_cases hhost : s.NoHandlerDue ∧ s.nextTurn = .host
    · obtain ⟨hn, ht⟩ := hhost
      rw [step_host ht hn]
      exact hostTurn_next s.endTurn
    · obtain ⟨t, hstep, _⟩ := step_asynchronous hreset (not_and_or.1 hhost)
      exact ⟨t, hstep⟩

/-! Hardware reset (R140, R145). -/

/-- Using up a turn writes the schedule only. -/
theorem endTurn_eq (s : State) : s.endTurn = { s with turns := s.endTurn.turns, draws := s.endTurn.draws } := by
  unfold State.endTurn
  split <;> rfl

/-- After hardware reset the state is the reset state around what is not the block's own (log entry 13). -/
theorem hardwareReset_eq (s : State) :
    s.hardwareReset =
      { State.reset with trace := s.trace, config := s.config, port := s.port, turns := s.turns, draws := s.draws } :=
  rfl

theorem hardwareReset_hardwareReset (s : State) : s.hardwareReset.hardwareReset = s.hardwareReset := rfl

theorem hardwareReset_withSchedule (s : State) (turns : List Turn) (draws : Nat) :
    ({ s with turns := turns, draws := draws } : State).hardwareReset =
      { s.hardwareReset with turns := turns, draws := draws } := rfl

theorem hardwareReset_noHandlerDue (s : State) : s.hardwareReset.NoHandlerDue := ⟨rfl, rfl⟩

/-- Settles O41: reset reads neither the command in progress nor a channel. -/
theorem hardwareResetAtAnyBoundary : Obligations.HardwareResetAtAnyBoundary := by
  intro s h
  refine ⟨_, step_reset h, ?_, pin_uninitialised rfl⟩
  rw [hardwareReset_eq, endTurn_trace, endTurn_config, endTurn_port]

/-! What runs after reset (R142). -/

/-- While no handler is due, the port waits and no clock runs, a step other than reset writes the schedule only. -/
theorem step_quiescent {s t : State} (hreset : s.nextTurn ≠ .reset) (hn : s.NoHandlerDue) (hs : s.seq = .idle)
    (hp : s.port = []) (hcs : ∀ c, (s.chan c).cs = 0) (h : step s = .next t) : t = s.endTurn := by
  rcases step_cases h with ⟨ht, _⟩ | ⟨_, c, hdue, _⟩ | ⟨_, _, hh⟩ | ⟨c, ht, _, _⟩ | ⟨_, _, _, rfl⟩
  · exact absurd ht hreset
  · rw [dueHandler_none.2 hn] at hdue
    cases hdue
  · rw [hostTurn_waits ((endTurn_seq s).trans hs) ((endTurn_port s).trans hp)] at hh
    cases hh
    rfl
  · cases h.symm.trans (step_timer_stopped ht hn (hcs c))
    rfl
  · rfl

/-- Settles O42: the block after reset is quiescent (R142), a further reset finds what it writes, and a command other
than `INIT` fails the check of `inited`. -/
theorem nothingRunsAfterResetUntilAWord : Obligations.NothingRunsAfterResetUntilAWord := by
  refine ⟨fun s t hp h => ?_, fun s i hi => exec_uninitialised i rfl rfl rfl hi⟩
  by_cases hreset : s.hardwareReset.nextTurn = .reset
  · cases h.symm.trans (step_reset hreset)
    rw [endTurn_eq, hardwareReset_withSchedule, hardwareReset_hardwareReset]
  · rw [step_quiescent hreset (hardwareReset_noHandlerDue s) rfl hp (fun c => by cases c <;> rfl) h]
    exact endTurn_eq _

end Sys2Proof.Machine
end
